-- ==== Sys2Proof/Word.lean ====
section
/-! DEFINITION. The word type of the block's interface. -/

namespace Sys2Proof

/-- Every operand, command and result word is 32 bits, bit-parallel, bit 0 least significant (R7, R13, R41). -/
abbrev Word := BitVec 32

end Sys2Proof
end

