-- ==== Sys2Proof/Config.lean ====
section
/-! DEFINITION. What an implementation of the block fixes: the names of the seven formats, their policies and the shape of a
row of the format table, the names of the fourteen operations, the parameters of the spec with their admissible values, and
the free values (opaque constants, of which nothing can be proved). -/

namespace Sys2Proof

/-- The seven formats, in the order of the format table (R6, R21). -/
inductive Format where
  | e5m2 | e4m3fn | e8m0 | bf16 | e2m3fn | e3m2fn | e2m1fn
  deriving DecidableEq, Repr

/-- The special-value policy of a format (R22). -/
inductive Policy where
  | ieeeLike | finiteWithNanSentinel | finiteSaturating | powerOfTwoScale
  deriving DecidableEq, Repr

/-- One row of the format table (R21, R22). -/
structure FormatSpec where
  totalBits    : Nat
  hasSign      : Bool
  expBits      : Nat
  mantBits     : Nat
  bias         : Nat
  policy       : Policy
  truncateOnly : Bool
  deriving DecidableEq, Repr

/-- The fourteen operations of the command word (R71). -/
inductive Op where
  | enc | dec | neg | isnz | add | sub | mul | div | eq | ne | lt | le | gt | ge
  deriving DecidableEq, Repr

/-- What a subnormal-path result of `2^M` becomes (93_implementation_defined.md row 5): the clamp of R109, or a carry. -/
inductive SubnormalTop where
  | clamp | carry
  deriving DecidableEq, Repr

/-- The constant `sqrt 2 / 2` of the float8_e8m0 encoder (93_implementation_defined.md row 6): exact (R118), or rounded to binary32. -/
inductive P2Threshold where
  | exact | binary32
  deriving DecidableEq, Repr

/-- Equality of +0 and -0 (93_implementation_defined.md row 7): by bits (R210), or by IEEE equality. -/
inductive EqZero where
  | bits | ieee
  deriving DecidableEq, Repr

/-- The byte orders `STORAGE_BYTE_ORDER` ranges over (R12, D19). -/
inductive ByteOrder where
  | little | big
  deriving DecidableEq, Repr, Inhabited

/-- The parameters of the spec that some rule of the block depends on. The values this spec takes are `Machine.blockParams`. -/
structure Params where
  /-- `VALUE_OPS` (R10): whether the operations NEG to GE exist. -/
  valueOps     : Bool
  /-- `DEC_NAN` (R9): the float32 pattern of a decoded NaN, from the code's sign. -/
  decNan       : Bool → Word
  /-- `SUBNORMAL_TOP` (93 row 5). -/
  subnormalTop : SubnormalTop
  /-- `P2_THRESHOLD` (93 row 6). -/
  p2Threshold  : P2Threshold
  /-- `EQ_ZERO` (93 row 7). -/
  eqZero       : EqZero
  /-- `E8M0_NEG_ZERO` (93 row 10): the float8_e8m0 code of -0.0. -/
  e8m0NegZero  : Word

/-- The constraint of R9 on `DEC_NAN`: a float32 NaN (exponent field 255, fraction nonzero) whose bit 31 is the code's sign;
and the two admissible values of `E8M0_NEG_ZERO`. -/
def Params.admissible (p : Params) : Prop :=
  (∀ s : Bool, (p.decNan s).extractLsb' 31 1 = BitVec.ofBool s ∧ (p.decNan s).extractLsb' 23 8 = 255#8 ∧
    (p.decNan s).extractLsb' 0 23 ≠ 0#23) ∧
  (p.e8m0NegZero = 0x00#32 ∨ p.e8m0NegZero = 0xFF#32)

/-- FREE VALUE (log entry 3). The draw `ARITH_NAN` of R205, by draw number: the sign (top bit) and the 22 payload bits
that the spec leaves open in the NaN result of a float32 operation; bits [30:22] of the pattern are ones. -/
opaque Config.arithNan : Nat → BitVec 23

/-- FREE VALUE (log entry 18). `LATENCY` (R8): cycles between a request and its response; no rule depends on it. -/
opaque Config.latency : Nat

/-- FREE VALUE (log entry 17). `STORAGE_BYTE_ORDER` (R12): the byte order of a stored bfloat16 code; no rule of the block depends on it. -/
opaque Config.storageByteOrder : ByteOrder

/-- FREE VALUE (log entry 19). The fraction of the float32 NaN that the host's narrowing gives for a float64 NaN (R102). -/
opaque Config.narrowNan : BitVec 64 → BitVec 23

/-- FREE VALUE (log entry 19). The sign (top bit) and fraction of the float64 NaN that the host's widening gives for a float32 NaN (R171). -/
opaque Config.widenNan : Word → BitVec 53

end Sys2Proof
end

