-- ==== Sys2Proof/Machine/FormatTable.lean ====
section
/-! DEFINITION. The constant format table (R21) and the constants derived from it (R23). -/

namespace Sys2Proof.Machine

/-- The format table, one row per format (R21). -/
def formatSpec : Format → FormatSpec
  | .e5m2   => ⟨8,  true,  5, 2, 15,  .ieeeLike,              false⟩
  | .e4m3fn => ⟨8,  true,  4, 3, 7,   .finiteWithNanSentinel, false⟩
  | .e8m0   => ⟨8,  false, 8, 0, 127, .powerOfTwoScale,       false⟩
  | .bf16   => ⟨16, true,  8, 7, 127, .ieeeLike,              true⟩
  | .e2m3fn => ⟨6,  true,  2, 3, 1,   .finiteSaturating,      false⟩
  | .e3m2fn => ⟨6,  true,  3, 2, 3,   .finiteSaturating,      false⟩
  | .e2m1fn => ⟨4,  true,  2, 1, 1,   .finiteSaturating,      false⟩

/-- `WMASK = 2^total_bits - 1` (R23). -/
def wmask (f : Format) : Word := BitVec.ofNat 32 (2 ^ (formatSpec f).totalBits - 1)

/-- `SMASK = 2^(total_bits-1)` if the format has a sign bit, else 0 (R23). -/
def smask (f : Format) : Word :=
  if (formatSpec f).hasSign then BitVec.ofNat 32 (2 ^ ((formatSpec f).totalBits - 1)) else 0#32

/-- `EMAXF = 2^E - 1`, the all-ones exponent field (R23). -/
def emaxf (f : Format) : Nat := 2 ^ (formatSpec f).expBits - 1

/-- `MMAX = 2^M - 1` (R23). -/
def mmax (f : Format) : Nat := 2 ^ (formatSpec f).mantBits - 1

/-- `emin = 1 - bias`, the minimum normal unbiased exponent (R23). -/
def emin (f : Format) : Int := 1 - (formatSpec f).bias

/-- `emax`, the maximum unbiased exponent of a finite normal code, per policy (R23, D10; log entry 13). Not applicable to
float8_e8m0, whose encoder does not read it. -/
def emax (f : Format) : Int :=
  match (formatSpec f).policy with
  | .ieeeLike => (emaxf f : Int) - 1 - (formatSpec f).bias
  | _         => (emaxf f : Int) - (formatSpec f).bias

/-- The exponent of `STEP = 2^(1 - bias - M)`, the subnormal grid step (R23). -/
def stepExp (f : Format) : Int := 1 - (formatSpec f).bias - (formatSpec f).mantBits

end Sys2Proof.Machine
end

