-- ==== Sys2Proof/Machine/Operands.lean ====
section
/-! DEFINITION. The operand forms: the fields of a float32 word (R60), a code operand in a 32-bit word (R66), the fields of a
code (R61, R161) and their packing into a code word (R61). -/

namespace Sys2Proof.Machine

/-- The sign `w[31]` of a float32 pattern (R60). -/
def f32Sign (w : Word) : Bool := w.getLsbD 31

/-- The biased exponent `w[30:23]` of a float32 pattern (R60). -/
def f32Exp (w : Word) : Nat := (w.extractLsb' 23 8).toNat

/-- The fraction `w[22:0]` of a float32 pattern (R60). -/
def f32Frac (w : Word) : Nat := (w.extractLsb' 0 23).toNat

/-- `IsNaN32` (R14). -/
def isNaN32 (w : Word) : Bool := f32Exp w = 255 ∧ f32Frac w ≠ 0

/-- `IsInf32` (R14). -/
def isInf32 (w : Word) : Bool := f32Exp w = 255 ∧ f32Frac w = 0

/-- The sign bit of a float32 pattern, at bit 31. -/
def f32SignBit (s : Bool) : Word := BitVec.ofNat 32 s.toNat <<< 31

/-- A code operand: the word's bits above `total_bits` are ignored (R66). -/
def codeOperand (f : Format) (w : Word) : Word := w &&& wmask f

/-- The sign of a code: bit `total_bits - 1`, or false for float8_e8m0, which has none (R161). -/
def codeSign (f : Format) (c : Word) : Bool := (formatSpec f).hasSign && c.getLsbD ((formatSpec f).totalBits - 1)

/-- The exponent field `c[E+M-1:M]` of a code (R161). -/
def codeExp (f : Format) (c : Word) : Nat := (c.extractLsb' (formatSpec f).mantBits (formatSpec f).expBits).toNat

/-- The mantissa field `c[M-1:0]` of a code, 0 when `M = 0` (R161). -/
def codeMant (f : Format) (c : Word) : Nat := (c.extractLsb' 0 (formatSpec f).mantBits).toNat

/-- `code = (s << (E + M)) | (expfield << M) | mantfield`, in a 32-bit word (R61, R66). -/
def packCode (f : Format) (s : Bool) (x m : Nat) : Word :=
  (BitVec.ofNat 32 s.toNat <<< ((formatSpec f).expBits + (formatSpec f).mantBits)) |||
    (BitVec.ofNat 32 x <<< (formatSpec f).mantBits) ||| BitVec.ofNat 32 m

end Sys2Proof.Machine
end

