-- ==== Sys2Proof/Machine/Float32.lean ====
section
/-! DEFINITION. Exact values of float32 patterns (R14), the rounder (R100), rounding of an exact rational to binary32, and the
four IEEE-754 binary32 operations with their special cases (R204). Every finite binary32 value is an integer multiple of
`2^-149`; magnitudes are counted in that unit, so that all arithmetic before rounding is exact. -/

namespace Sys2Proof.Machine

/-- `RHE`, round half to even, of the exact rational `num / den` with `den > 0` (R100). Int division by a positive
denominator is the floor. -/
def rhe (num : Int) (den : Nat) : Int :=
  let fl := num / (den : Int)
  let rem := num - fl * den
  if 2 * rem > den then fl + 1
  else if 2 * rem < den then fl
  else if fl % 2 = 0 then fl else fl + 1

/-- What a binary32 pattern denotes (R14): NaN, a signed infinity, or the exact real `(-1)^neg * mag * 2^-149`
(+0 and -0 kept apart by `neg`). -/
inductive F32Value where
  | nan
  | inf (neg : Bool)
  | fin (neg : Bool) (mag : Nat)
  deriving DecidableEq, Repr

/-- The magnitude of a finite float32 in units of `2^-149` (R14): `frac23` for `exp8 = 0`, and
`(2^23 + frac23) * 2^(exp8 - 1)` for `1 <= exp8 <= 254`. -/
def f32Mag (exp8 frac23 : Nat) : Nat :=
  if exp8 = 0 then frac23 else (2 ^ 23 + frac23) * 2 ^ (exp8 - 1)

/-- `F32Value` (R14). -/
def f32Value (w : Word) : F32Value :=
  if f32Exp w = 255 then (if f32Frac w = 0 then .inf (f32Sign w) else .nan)
  else .fin (f32Sign w) (f32Mag (f32Exp w) (f32Frac w))

/-- `F32Bits` (R14) of a magnitude `mag * 2^-149` that is exactly representable: the pattern with sign bit 0. With
`shift` the exponent above the subnormal range, the significand `mag / 2^shift` lies below `2^24`, and exponent and
fraction add up to the pattern. -/
def f32Bits (mag : Nat) : Word :=
  let shift := Nat.log2 mag - 23
  BitVec.ofNat 32 (shift * 2 ^ 23 + mag / 2 ^ shift)

/-- The magnitude bits (before the overflow test) of `num / den`, in units of `2^-149`, rounded to nearest even onto the
binary32 grid with gradual underflow (R204). A carry out of the significand raises the exponent. -/
def f32RoundBits (num den : Nat) : Nat :=
  let shift := Nat.log2 (num / den) - 23
  shift * 2 ^ 23 + (rhe num (den * 2 ^ shift)).toNat

/-- The binary32 pattern of `(-1)^neg * (num / den) * 2^-149` rounded to nearest even, with overflow to a signed
infinity (R204). -/
def f32Round (neg : Bool) (num den : Nat) : Word :=
  f32SignBit neg ||| BitVec.ofNat 32 (min (f32RoundBits num den) 0x7F800000)

/-- A signed infinity. -/
def f32Inf (neg : Bool) : Word := f32SignBit neg ||| 0x7F800000#32

/-- A signed integer from a sign and a magnitude. -/
def signedMag (neg : Bool) (mag : Nat) : Int := if neg then -(mag : Int) else mag

/-- The negation of a float32 value; a NaN stays a NaN. -/
def f32NegValue : F32Value → F32Value
  | .nan     => .nan
  | .inf s   => .inf (!s)
  | .fin s m => .fin (!s) m

/-- The sum of two float32 values, `none` for a NaN result (R204): an exact zero sum of operands with unlike signs is +0,
of like signs it has their sign. -/
def f32AddValue : F32Value → F32Value → Option Word
  | .nan,     _        => none
  | _,        .nan     => none
  | .inf s,   .inf t   => if s = t then some (f32Inf s) else none
  | .inf s,   .fin _ _ => some (f32Inf s)
  | .fin _ _, .inf t   => some (f32Inf t)
  | .fin s m, .fin t n =>
    let z := signedMag s m + signedMag t n
    if z = 0 then some (f32SignBit (s && t)) else some (f32Round (z < 0) z.natAbs 1)

/-- The product of two float32 values, `none` for a NaN result (R204). The exact product is a multiple of `2^-298`. -/
def f32MulValue : F32Value → F32Value → Option Word
  | .nan,     _        => none
  | _,        .nan     => none
  | .inf s,   .inf t   => some (f32Inf (s != t))
  | .inf s,   .fin t n => if n = 0 then none else some (f32Inf (s != t))
  | .fin s m, .inf t   => if m = 0 then none else some (f32Inf (s != t))
  | .fin s m, .fin t n => some (f32Round (s != t) (m * n) (2 ^ 149))

/-- The quotient of two float32 values, `none` for a NaN result (R204). -/
def f32DivValue : F32Value → F32Value → Option Word
  | .nan,     _        => none
  | _,        .nan     => none
  | .inf _,   .inf _   => none
  | .inf s,   .fin t _ => some (f32Inf (s != t))
  | .fin s _, .inf t   => some (f32SignBit (s != t))
  | .fin s m, .fin t n =>
    if n = 0 then (if m = 0 then none else some (f32Inf (s != t)))
    else some (f32Round (s != t) (m * 2 ^ 149) n)

/-- `F32Op(add, x, y)` (R204); `none` is a NaN result. -/
def f32Add (x y : Word) : Option Word := f32AddValue (f32Value x) (f32Value y)

/-- `F32Op(sub, x, y)` (R204): the sum with `y` negated. -/
def f32Sub (x y : Word) : Option Word := f32AddValue (f32Value x) (f32NegValue (f32Value y))

/-- `F32Op(mul, x, y)` (R204). -/
def f32Mul (x y : Word) : Option Word := f32MulValue (f32Value x) (f32Value y)

/-- `F32Op(div, x, y)` (R204). -/
def f32Div (x y : Word) : Option Word := f32DivValue (f32Value x) (f32Value y)

/-- The order of two integers. -/
def orderOf (x y : Int) : Ordering := if x < y then .lt else if x = y then .eq else .gt

/-- Three-way comparison of two float32 values as extended reals (R212): -0 = +0, -Inf below and +Inf above every finite
value. `none` when either is a NaN. -/
def f32Compare : F32Value → F32Value → Option Ordering
  | .nan,     _        => none
  | _,        .nan     => none
  | .inf s,   .inf t   => some (orderOf (signedMag s 1) (signedMag t 1))
  | .inf s,   .fin _ _ => some (if s then .lt else .gt)
  | .fin _ _, .inf t   => some (if t then .gt else .lt)
  | .fin s m, .fin t n => some (orderOf (signedMag s m) (signedMag t n))

end Sys2Proof.Machine
end

