-- ==== Sys2Proof/Machine/Parameters.lean ====
section
/-! DEFINITION. The parameter values this spec takes for the block. -/

namespace Sys2Proof.Machine

/-- The values of the spec: VALUE_OPS = 1 (R10), DEC_NAN(s) = (s << 31) | 0x7FC0_0000 (R9), the clamp of R109 (C2), the exact
threshold of R118 (D12), bit equality of R210 (C7), and code 0x00 for -0.0 (R116, D11). Log entries 6 to 11. -/
def blockParams : Params where
  valueOps     := true
  decNan       := fun s => (BitVec.ofNat 32 s.toNat <<< 31) ||| 0x7FC00000#32
  subnormalTop := .clamp
  p2Threshold  := .exact
  eqZero       := .bits
  e8m0NegZero  := 0x00#32

end Sys2Proof.Machine
end

