-- ==== Sys2Proof/Syntax.lean ====
section
/-! DEFINITION. The commands of the block: one constructor per row of spec/opcode_table.json, with the operand words the
command reads (R74, R78), and the request that carries a command (R70). -/

namespace Sys2Proof

/-- A request: the command word and the two operand words (R70). -/
structure Request where
  cmd : Word
  a   : Word
  b   : Word
  deriving DecidableEq, Repr

/-- A command with its operands. A unary command (ENC, DEC, NEG, ISNZ) reads `a` only, a binary one `a` and `b` (R74). There is
no NEG for float8_e8m0 (R76). -/
inductive Instr where
  | encE5m2 (a : Word)
  | encE4m3fn (a : Word)
  | encE8m0 (a : Word)
  | encBf16 (a : Word)
  | encE2m3fn (a : Word)
  | encE3m2fn (a : Word)
  | encE2m1fn (a : Word)
  | decE5m2 (a : Word)
  | decE4m3fn (a : Word)
  | decE8m0 (a : Word)
  | decBf16 (a : Word)
  | decE2m3fn (a : Word)
  | decE3m2fn (a : Word)
  | decE2m1fn (a : Word)
  | negE5m2 (a : Word)
  | negE4m3fn (a : Word)
  | negBf16 (a : Word)
  | negE2m3fn (a : Word)
  | negE3m2fn (a : Word)
  | negE2m1fn (a : Word)
  | isnzE5m2 (a : Word)
  | isnzE4m3fn (a : Word)
  | isnzE8m0 (a : Word)
  | isnzBf16 (a : Word)
  | isnzE2m3fn (a : Word)
  | isnzE3m2fn (a : Word)
  | isnzE2m1fn (a : Word)
  | addE5m2 (a b : Word)
  | addE4m3fn (a b : Word)
  | addE8m0 (a b : Word)
  | addBf16 (a b : Word)
  | addE2m3fn (a b : Word)
  | addE3m2fn (a b : Word)
  | addE2m1fn (a b : Word)
  | subE5m2 (a b : Word)
  | subE4m3fn (a b : Word)
  | subE8m0 (a b : Word)
  | subBf16 (a b : Word)
  | subE2m3fn (a b : Word)
  | subE3m2fn (a b : Word)
  | subE2m1fn (a b : Word)
  | mulE5m2 (a b : Word)
  | mulE4m3fn (a b : Word)
  | mulE8m0 (a b : Word)
  | mulBf16 (a b : Word)
  | mulE2m3fn (a b : Word)
  | mulE3m2fn (a b : Word)
  | mulE2m1fn (a b : Word)
  | divE5m2 (a b : Word)
  | divE4m3fn (a b : Word)
  | divE8m0 (a b : Word)
  | divBf16 (a b : Word)
  | divE2m3fn (a b : Word)
  | divE3m2fn (a b : Word)
  | divE2m1fn (a b : Word)
  | eqE5m2 (a b : Word)
  | eqE4m3fn (a b : Word)
  | eqE8m0 (a b : Word)
  | eqBf16 (a b : Word)
  | eqE2m3fn (a b : Word)
  | eqE3m2fn (a b : Word)
  | eqE2m1fn (a b : Word)
  | neE5m2 (a b : Word)
  | neE4m3fn (a b : Word)
  | neE8m0 (a b : Word)
  | neBf16 (a b : Word)
  | neE2m3fn (a b : Word)
  | neE3m2fn (a b : Word)
  | neE2m1fn (a b : Word)
  | ltE5m2 (a b : Word)
  | ltE4m3fn (a b : Word)
  | ltE8m0 (a b : Word)
  | ltBf16 (a b : Word)
  | ltE2m3fn (a b : Word)
  | ltE3m2fn (a b : Word)
  | ltE2m1fn (a b : Word)
  | leE5m2 (a b : Word)
  | leE4m3fn (a b : Word)
  | leE8m0 (a b : Word)
  | leBf16 (a b : Word)
  | leE2m3fn (a b : Word)
  | leE3m2fn (a b : Word)
  | leE2m1fn (a b : Word)
  | gtE5m2 (a b : Word)
  | gtE4m3fn (a b : Word)
  | gtE8m0 (a b : Word)
  | gtBf16 (a b : Word)
  | gtE2m3fn (a b : Word)
  | gtE3m2fn (a b : Word)
  | gtE2m1fn (a b : Word)
  | geE5m2 (a b : Word)
  | geE4m3fn (a b : Word)
  | geE8m0 (a b : Word)
  | geBf16 (a b : Word)
  | geE2m3fn (a b : Word)
  | geE3m2fn (a b : Word)
  | geE2m1fn (a b : Word)
  deriving DecidableEq, Repr

/-- The operation of a command (R71). -/
def Instr.op : Instr → Op
  | .encE5m2 _ => .enc
  | .encE4m3fn _ => .enc
  | .encE8m0 _ => .enc
  | .encBf16 _ => .enc
  | .encE2m3fn _ => .enc
  | .encE3m2fn _ => .enc
  | .encE2m1fn _ => .enc
  | .decE5m2 _ => .dec
  | .decE4m3fn _ => .dec
  | .decE8m0 _ => .dec
  | .decBf16 _ => .dec
  | .decE2m3fn _ => .dec
  | .decE3m2fn _ => .dec
  | .decE2m1fn _ => .dec
  | .negE5m2 _ => .neg
  | .negE4m3fn _ => .neg
  | .negBf16 _ => .neg
  | .negE2m3fn _ => .neg
  | .negE3m2fn _ => .neg
  | .negE2m1fn _ => .neg
  | .isnzE5m2 _ => .isnz
  | .isnzE4m3fn _ => .isnz
  | .isnzE8m0 _ => .isnz
  | .isnzBf16 _ => .isnz
  | .isnzE2m3fn _ => .isnz
  | .isnzE3m2fn _ => .isnz
  | .isnzE2m1fn _ => .isnz
  | .addE5m2 _ _ => .add
  | .addE4m3fn _ _ => .add
  | .addE8m0 _ _ => .add
  | .addBf16 _ _ => .add
  | .addE2m3fn _ _ => .add
  | .addE3m2fn _ _ => .add
  | .addE2m1fn _ _ => .add
  | .subE5m2 _ _ => .sub
  | .subE4m3fn _ _ => .sub
  | .subE8m0 _ _ => .sub
  | .subBf16 _ _ => .sub
  | .subE2m3fn _ _ => .sub
  | .subE3m2fn _ _ => .sub
  | .subE2m1fn _ _ => .sub
  | .mulE5m2 _ _ => .mul
  | .mulE4m3fn _ _ => .mul
  | .mulE8m0 _ _ => .mul
  | .mulBf16 _ _ => .mul
  | .mulE2m3fn _ _ => .mul
  | .mulE3m2fn _ _ => .mul
  | .mulE2m1fn _ _ => .mul
  | .divE5m2 _ _ => .div
  | .divE4m3fn _ _ => .div
  | .divE8m0 _ _ => .div
  | .divBf16 _ _ => .div
  | .divE2m3fn _ _ => .div
  | .divE3m2fn _ _ => .div
  | .divE2m1fn _ _ => .div
  | .eqE5m2 _ _ => .eq
  | .eqE4m3fn _ _ => .eq
  | .eqE8m0 _ _ => .eq
  | .eqBf16 _ _ => .eq
  | .eqE2m3fn _ _ => .eq
  | .eqE3m2fn _ _ => .eq
  | .eqE2m1fn _ _ => .eq
  | .neE5m2 _ _ => .ne
  | .neE4m3fn _ _ => .ne
  | .neE8m0 _ _ => .ne
  | .neBf16 _ _ => .ne
  | .neE2m3fn _ _ => .ne
  | .neE3m2fn _ _ => .ne
  | .neE2m1fn _ _ => .ne
  | .ltE5m2 _ _ => .lt
  | .ltE4m3fn _ _ => .lt
  | .ltE8m0 _ _ => .lt
  | .ltBf16 _ _ => .lt
  | .ltE2m3fn _ _ => .lt
  | .ltE3m2fn _ _ => .lt
  | .ltE2m1fn _ _ => .lt
  | .leE5m2 _ _ => .le
  | .leE4m3fn _ _ => .le
  | .leE8m0 _ _ => .le
  | .leBf16 _ _ => .le
  | .leE2m3fn _ _ => .le
  | .leE3m2fn _ _ => .le
  | .leE2m1fn _ _ => .le
  | .gtE5m2 _ _ => .gt
  | .gtE4m3fn _ _ => .gt
  | .gtE8m0 _ _ => .gt
  | .gtBf16 _ _ => .gt
  | .gtE2m3fn _ _ => .gt
  | .gtE3m2fn _ _ => .gt
  | .gtE2m1fn _ _ => .gt
  | .geE5m2 _ _ => .ge
  | .geE4m3fn _ _ => .ge
  | .geE8m0 _ _ => .ge
  | .geBf16 _ _ => .ge
  | .geE2m3fn _ _ => .ge
  | .geE3m2fn _ _ => .ge
  | .geE2m1fn _ _ => .ge

/-- The format of a command (R72). -/
def Instr.fmt : Instr → Format
  | .encE5m2 _ => .e5m2
  | .encE4m3fn _ => .e4m3fn
  | .encE8m0 _ => .e8m0
  | .encBf16 _ => .bf16
  | .encE2m3fn _ => .e2m3fn
  | .encE3m2fn _ => .e3m2fn
  | .encE2m1fn _ => .e2m1fn
  | .decE5m2 _ => .e5m2
  | .decE4m3fn _ => .e4m3fn
  | .decE8m0 _ => .e8m0
  | .decBf16 _ => .bf16
  | .decE2m3fn _ => .e2m3fn
  | .decE3m2fn _ => .e3m2fn
  | .decE2m1fn _ => .e2m1fn
  | .negE5m2 _ => .e5m2
  | .negE4m3fn _ => .e4m3fn
  | .negBf16 _ => .bf16
  | .negE2m3fn _ => .e2m3fn
  | .negE3m2fn _ => .e3m2fn
  | .negE2m1fn _ => .e2m1fn
  | .isnzE5m2 _ => .e5m2
  | .isnzE4m3fn _ => .e4m3fn
  | .isnzE8m0 _ => .e8m0
  | .isnzBf16 _ => .bf16
  | .isnzE2m3fn _ => .e2m3fn
  | .isnzE3m2fn _ => .e3m2fn
  | .isnzE2m1fn _ => .e2m1fn
  | .addE5m2 _ _ => .e5m2
  | .addE4m3fn _ _ => .e4m3fn
  | .addE8m0 _ _ => .e8m0
  | .addBf16 _ _ => .bf16
  | .addE2m3fn _ _ => .e2m3fn
  | .addE3m2fn _ _ => .e3m2fn
  | .addE2m1fn _ _ => .e2m1fn
  | .subE5m2 _ _ => .e5m2
  | .subE4m3fn _ _ => .e4m3fn
  | .subE8m0 _ _ => .e8m0
  | .subBf16 _ _ => .bf16
  | .subE2m3fn _ _ => .e2m3fn
  | .subE3m2fn _ _ => .e3m2fn
  | .subE2m1fn _ _ => .e2m1fn
  | .mulE5m2 _ _ => .e5m2
  | .mulE4m3fn _ _ => .e4m3fn
  | .mulE8m0 _ _ => .e8m0
  | .mulBf16 _ _ => .bf16
  | .mulE2m3fn _ _ => .e2m3fn
  | .mulE3m2fn _ _ => .e3m2fn
  | .mulE2m1fn _ _ => .e2m1fn
  | .divE5m2 _ _ => .e5m2
  | .divE4m3fn _ _ => .e4m3fn
  | .divE8m0 _ _ => .e8m0
  | .divBf16 _ _ => .bf16
  | .divE2m3fn _ _ => .e2m3fn
  | .divE3m2fn _ _ => .e3m2fn
  | .divE2m1fn _ _ => .e2m1fn
  | .eqE5m2 _ _ => .e5m2
  | .eqE4m3fn _ _ => .e4m3fn
  | .eqE8m0 _ _ => .e8m0
  | .eqBf16 _ _ => .bf16
  | .eqE2m3fn _ _ => .e2m3fn
  | .eqE3m2fn _ _ => .e3m2fn
  | .eqE2m1fn _ _ => .e2m1fn
  | .neE5m2 _ _ => .e5m2
  | .neE4m3fn _ _ => .e4m3fn
  | .neE8m0 _ _ => .e8m0
  | .neBf16 _ _ => .bf16
  | .neE2m3fn _ _ => .e2m3fn
  | .neE3m2fn _ _ => .e3m2fn
  | .neE2m1fn _ _ => .e2m1fn
  | .ltE5m2 _ _ => .e5m2
  | .ltE4m3fn _ _ => .e4m3fn
  | .ltE8m0 _ _ => .e8m0
  | .ltBf16 _ _ => .bf16
  | .ltE2m3fn _ _ => .e2m3fn
  | .ltE3m2fn _ _ => .e3m2fn
  | .ltE2m1fn _ _ => .e2m1fn
  | .leE5m2 _ _ => .e5m2
  | .leE4m3fn _ _ => .e4m3fn
  | .leE8m0 _ _ => .e8m0
  | .leBf16 _ _ => .bf16
  | .leE2m3fn _ _ => .e2m3fn
  | .leE3m2fn _ _ => .e3m2fn
  | .leE2m1fn _ _ => .e2m1fn
  | .gtE5m2 _ _ => .e5m2
  | .gtE4m3fn _ _ => .e4m3fn
  | .gtE8m0 _ _ => .e8m0
  | .gtBf16 _ _ => .bf16
  | .gtE2m3fn _ _ => .e2m3fn
  | .gtE3m2fn _ _ => .e3m2fn
  | .gtE2m1fn _ _ => .e2m1fn
  | .geE5m2 _ _ => .e5m2
  | .geE4m3fn _ _ => .e4m3fn
  | .geE8m0 _ _ => .e8m0
  | .geBf16 _ _ => .bf16
  | .geE2m3fn _ _ => .e2m3fn
  | .geE3m2fn _ _ => .e3m2fn
  | .geE2m1fn _ _ => .e2m1fn

/-- The operand word `a` of a command. -/
def Instr.opA : Instr → Word
  | .encE5m2 a => a
  | .encE4m3fn a => a
  | .encE8m0 a => a
  | .encBf16 a => a
  | .encE2m3fn a => a
  | .encE3m2fn a => a
  | .encE2m1fn a => a
  | .decE5m2 a => a
  | .decE4m3fn a => a
  | .decE8m0 a => a
  | .decBf16 a => a
  | .decE2m3fn a => a
  | .decE3m2fn a => a
  | .decE2m1fn a => a
  | .negE5m2 a => a
  | .negE4m3fn a => a
  | .negBf16 a => a
  | .negE2m3fn a => a
  | .negE3m2fn a => a
  | .negE2m1fn a => a
  | .isnzE5m2 a => a
  | .isnzE4m3fn a => a
  | .isnzE8m0 a => a
  | .isnzBf16 a => a
  | .isnzE2m3fn a => a
  | .isnzE3m2fn a => a
  | .isnzE2m1fn a => a
  | .addE5m2 a _ => a
  | .addE4m3fn a _ => a
  | .addE8m0 a _ => a
  | .addBf16 a _ => a
  | .addE2m3fn a _ => a
  | .addE3m2fn a _ => a
  | .addE2m1fn a _ => a
  | .subE5m2 a _ => a
  | .subE4m3fn a _ => a
  | .subE8m0 a _ => a
  | .subBf16 a _ => a
  | .subE2m3fn a _ => a
  | .subE3m2fn a _ => a
  | .subE2m1fn a _ => a
  | .mulE5m2 a _ => a
  | .mulE4m3fn a _ => a
  | .mulE8m0 a _ => a
  | .mulBf16 a _ => a
  | .mulE2m3fn a _ => a
  | .mulE3m2fn a _ => a
  | .mulE2m1fn a _ => a
  | .divE5m2 a _ => a
  | .divE4m3fn a _ => a
  | .divE8m0 a _ => a
  | .divBf16 a _ => a
  | .divE2m3fn a _ => a
  | .divE3m2fn a _ => a
  | .divE2m1fn a _ => a
  | .eqE5m2 a _ => a
  | .eqE4m3fn a _ => a
  | .eqE8m0 a _ => a
  | .eqBf16 a _ => a
  | .eqE2m3fn a _ => a
  | .eqE3m2fn a _ => a
  | .eqE2m1fn a _ => a
  | .neE5m2 a _ => a
  | .neE4m3fn a _ => a
  | .neE8m0 a _ => a
  | .neBf16 a _ => a
  | .neE2m3fn a _ => a
  | .neE3m2fn a _ => a
  | .neE2m1fn a _ => a
  | .ltE5m2 a _ => a
  | .ltE4m3fn a _ => a
  | .ltE8m0 a _ => a
  | .ltBf16 a _ => a
  | .ltE2m3fn a _ => a
  | .ltE3m2fn a _ => a
  | .ltE2m1fn a _ => a
  | .leE5m2 a _ => a
  | .leE4m3fn a _ => a
  | .leE8m0 a _ => a
  | .leBf16 a _ => a
  | .leE2m3fn a _ => a
  | .leE3m2fn a _ => a
  | .leE2m1fn a _ => a
  | .gtE5m2 a _ => a
  | .gtE4m3fn a _ => a
  | .gtE8m0 a _ => a
  | .gtBf16 a _ => a
  | .gtE2m3fn a _ => a
  | .gtE3m2fn a _ => a
  | .gtE2m1fn a _ => a
  | .geE5m2 a _ => a
  | .geE4m3fn a _ => a
  | .geE8m0 a _ => a
  | .geBf16 a _ => a
  | .geE2m3fn a _ => a
  | .geE3m2fn a _ => a
  | .geE2m1fn a _ => a

/-- The operand word `b` of a binary command; a unary command has none, and 0 stands in the request that encodes it. -/
def Instr.opB : Instr → Word
  | .encE5m2 _ => 0#32
  | .encE4m3fn _ => 0#32
  | .encE8m0 _ => 0#32
  | .encBf16 _ => 0#32
  | .encE2m3fn _ => 0#32
  | .encE3m2fn _ => 0#32
  | .encE2m1fn _ => 0#32
  | .decE5m2 _ => 0#32
  | .decE4m3fn _ => 0#32
  | .decE8m0 _ => 0#32
  | .decBf16 _ => 0#32
  | .decE2m3fn _ => 0#32
  | .decE3m2fn _ => 0#32
  | .decE2m1fn _ => 0#32
  | .negE5m2 _ => 0#32
  | .negE4m3fn _ => 0#32
  | .negBf16 _ => 0#32
  | .negE2m3fn _ => 0#32
  | .negE3m2fn _ => 0#32
  | .negE2m1fn _ => 0#32
  | .isnzE5m2 _ => 0#32
  | .isnzE4m3fn _ => 0#32
  | .isnzE8m0 _ => 0#32
  | .isnzBf16 _ => 0#32
  | .isnzE2m3fn _ => 0#32
  | .isnzE3m2fn _ => 0#32
  | .isnzE2m1fn _ => 0#32
  | .addE5m2 _ b => b
  | .addE4m3fn _ b => b
  | .addE8m0 _ b => b
  | .addBf16 _ b => b
  | .addE2m3fn _ b => b
  | .addE3m2fn _ b => b
  | .addE2m1fn _ b => b
  | .subE5m2 _ b => b
  | .subE4m3fn _ b => b
  | .subE8m0 _ b => b
  | .subBf16 _ b => b
  | .subE2m3fn _ b => b
  | .subE3m2fn _ b => b
  | .subE2m1fn _ b => b
  | .mulE5m2 _ b => b
  | .mulE4m3fn _ b => b
  | .mulE8m0 _ b => b
  | .mulBf16 _ b => b
  | .mulE2m3fn _ b => b
  | .mulE3m2fn _ b => b
  | .mulE2m1fn _ b => b
  | .divE5m2 _ b => b
  | .divE4m3fn _ b => b
  | .divE8m0 _ b => b
  | .divBf16 _ b => b
  | .divE2m3fn _ b => b
  | .divE3m2fn _ b => b
  | .divE2m1fn _ b => b
  | .eqE5m2 _ b => b
  | .eqE4m3fn _ b => b
  | .eqE8m0 _ b => b
  | .eqBf16 _ b => b
  | .eqE2m3fn _ b => b
  | .eqE3m2fn _ b => b
  | .eqE2m1fn _ b => b
  | .neE5m2 _ b => b
  | .neE4m3fn _ b => b
  | .neE8m0 _ b => b
  | .neBf16 _ b => b
  | .neE2m3fn _ b => b
  | .neE3m2fn _ b => b
  | .neE2m1fn _ b => b
  | .ltE5m2 _ b => b
  | .ltE4m3fn _ b => b
  | .ltE8m0 _ b => b
  | .ltBf16 _ b => b
  | .ltE2m3fn _ b => b
  | .ltE3m2fn _ b => b
  | .ltE2m1fn _ b => b
  | .leE5m2 _ b => b
  | .leE4m3fn _ b => b
  | .leE8m0 _ b => b
  | .leBf16 _ b => b
  | .leE2m3fn _ b => b
  | .leE3m2fn _ b => b
  | .leE2m1fn _ b => b
  | .gtE5m2 _ b => b
  | .gtE4m3fn _ b => b
  | .gtE8m0 _ b => b
  | .gtBf16 _ b => b
  | .gtE2m3fn _ b => b
  | .gtE3m2fn _ b => b
  | .gtE2m1fn _ b => b
  | .geE5m2 _ b => b
  | .geE4m3fn _ b => b
  | .geE8m0 _ b => b
  | .geBf16 _ b => b
  | .geE2m3fn _ b => b
  | .geE3m2fn _ b => b
  | .geE2m1fn _ b => b

end Sys2Proof
end

