-- ==== Sys2Proof/WellFormed.lean ====
section
/-! DEFINITION. Which commands are well formed: the one check that the syntax does not already make is `VALUE_OPS` (R10). That
NEG has no float8_e8m0 form and that both operands of a binary command have one format hold by the shape of `Instr` (R74, R76). -/

namespace Sys2Proof

/-- The operations that exist only when `VALUE_OPS = 1`: op 2 to 13 (R10, R76). -/
def isValueOp : Op → Bool
  | .enc | .dec => false
  | .neg | .isnz | .add | .sub | .mul | .div | .eq | .ne | .lt | .le | .gt | .ge => true

/-- A command is well formed for the parameters when its operation exists (R10). Every operand word is allowed: unused high
bits of a code operand are no error (R253). -/
def wellFormed (p : Params) (i : Instr) : Bool := p.valueOps || !isValueOp i.op

end Sys2Proof
end

