-- ==== Sys2Proof/Decode.lean ====
section
/-! DEFINITION. The decoder of requests, total on all words and rejecting by name (R70 to R76), the encoder written from the same
fields, and the host's table-word view of the decoder. -/

namespace Sys2Proof

/-- Why a command word is illegal (R76, R251). All five reasons give the same response. -/
inductive Reject where
  /-- `cmd[31:7] != 0` (R73). -/
  | reservedBits
  /-- `Op(cmd)` is 14 or 15 (R71). -/
  | reservedOp
  /-- `Fmt(cmd) = 7` (R72). -/
  | reservedFmt
  /-- NEG of float8_e8m0 (R76, D7). -/
  | negE8m0
  /-- `VALUE_OPS = 0` and `2 <= Op(cmd) <= 13` (R10, R76). -/
  | valueOpsDisabled
  deriving DecidableEq, Repr

/-- `Op(cmd) = cmd[3:0]` (R70). -/
def opField (cmd : Word) : Nat := (cmd.extractLsb' 0 4).toNat

/-- `Fmt(cmd) = cmd[6:4]` (R70). -/
def fmtField (cmd : Word) : Nat := (cmd.extractLsb' 4 3).toNat

/-- `cmd[31:7]`, reserved (R70). -/
def reservedField (cmd : Word) : Nat := (cmd.extractLsb' 7 25).toNat

/-- The operation an op value selects; 14 and 15 are reserved (R71). -/
def opOfField : Nat → Option Op
  | 0 => some .enc
  | 1 => some .dec
  | 2 => some .neg
  | 3 => some .isnz
  | 4 => some .add
  | 5 => some .sub
  | 6 => some .mul
  | 7 => some .div
  | 8 => some .eq
  | 9 => some .ne
  | 10 => some .lt
  | 11 => some .le
  | 12 => some .gt
  | 13 => some .ge
  | _ => none

/-- The format a fmt value selects; 7 is reserved (R72). -/
def fmtOfField : Nat → Option Format
  | 0 => some .e5m2
  | 1 => some .e4m3fn
  | 2 => some .e8m0
  | 3 => some .bf16
  | 4 => some .e2m3fn
  | 5 => some .e3m2fn
  | 6 => some .e2m1fn
  | _ => none

/-- The op value of an operation (R71). -/
def opCode : Op → Nat
  | .enc => 0
  | .dec => 1
  | .neg => 2
  | .isnz => 3
  | .add => 4
  | .sub => 5
  | .mul => 6
  | .div => 7
  | .eq => 8
  | .ne => 9
  | .lt => 10
  | .le => 11
  | .gt => 12
  | .ge => 13

/-- The fmt value of a format (R72). -/
def fmtCode : Format → Nat
  | .e5m2 => 0
  | .e4m3fn => 1
  | .e8m0 => 2
  | .bf16 => 3
  | .e2m3fn => 4
  | .e3m2fn => 5
  | .e2m1fn => 6

/-- ENC of a format (R71). -/
def encOf (f : Format) (a : Word) : Instr :=
  match f with
  | .e5m2 => .encE5m2 a
  | .e4m3fn => .encE4m3fn a
  | .e8m0 => .encE8m0 a
  | .bf16 => .encBf16 a
  | .e2m3fn => .encE2m3fn a
  | .e3m2fn => .encE3m2fn a
  | .e2m1fn => .encE2m1fn a

/-- DEC of a format (R71). -/
def decOf (f : Format) (a : Word) : Instr :=
  match f with
  | .e5m2 => .decE5m2 a
  | .e4m3fn => .decE4m3fn a
  | .e8m0 => .decE8m0 a
  | .bf16 => .decBf16 a
  | .e2m3fn => .decE2m3fn a
  | .e3m2fn => .decE3m2fn a
  | .e2m1fn => .decE2m1fn a

/-- NEG of a format; float8_e8m0 has none (R76, R201). -/
def negOf (f : Format) (a : Word) : Option Instr :=
  match f with
  | .e5m2 => some (.negE5m2 a)
  | .e4m3fn => some (.negE4m3fn a)
  | .e8m0 => none
  | .bf16 => some (.negBf16 a)
  | .e2m3fn => some (.negE2m3fn a)
  | .e3m2fn => some (.negE3m2fn a)
  | .e2m1fn => some (.negE2m1fn a)

/-- ISNZ of a format (R71). -/
def isnzOf (f : Format) (a : Word) : Instr :=
  match f with
  | .e5m2 => .isnzE5m2 a
  | .e4m3fn => .isnzE4m3fn a
  | .e8m0 => .isnzE8m0 a
  | .bf16 => .isnzBf16 a
  | .e2m3fn => .isnzE2m3fn a
  | .e3m2fn => .isnzE3m2fn a
  | .e2m1fn => .isnzE2m1fn a

/-- ADD of a format (R71). -/
def addOf (f : Format) (a b : Word) : Instr :=
  match f with
  | .e5m2 => .addE5m2 a b
  | .e4m3fn => .addE4m3fn a b
  | .e8m0 => .addE8m0 a b
  | .bf16 => .addBf16 a b
  | .e2m3fn => .addE2m3fn a b
  | .e3m2fn => .addE3m2fn a b
  | .e2m1fn => .addE2m1fn a b

/-- SUB of a format (R71). -/
def subOf (f : Format) (a b : Word) : Instr :=
  match f with
  | .e5m2 => .subE5m2 a b
  | .e4m3fn => .subE4m3fn a b
  | .e8m0 => .subE8m0 a b
  | .bf16 => .subBf16 a b
  | .e2m3fn => .subE2m3fn a b
  | .e3m2fn => .subE3m2fn a b
  | .e2m1fn => .subE2m1fn a b

/-- MUL of a format (R71). -/
def mulOf (f : Format) (a b : Word) : Instr :=
  match f with
  | .e5m2 => .mulE5m2 a b
  | .e4m3fn => .mulE4m3fn a b
  | .e8m0 => .mulE8m0 a b
  | .bf16 => .mulBf16 a b
  | .e2m3fn => .mulE2m3fn a b
  | .e3m2fn => .mulE3m2fn a b
  | .e2m1fn => .mulE2m1fn a b

/-- DIV of a format (R71). -/
def divOf (f : Format) (a b : Word) : Instr :=
  match f with
  | .e5m2 => .divE5m2 a b
  | .e4m3fn => .divE4m3fn a b
  | .e8m0 => .divE8m0 a b
  | .bf16 => .divBf16 a b
  | .e2m3fn => .divE2m3fn a b
  | .e3m2fn => .divE3m2fn a b
  | .e2m1fn => .divE2m1fn a b

/-- EQ of a format (R71). -/
def eqOf (f : Format) (a b : Word) : Instr :=
  match f with
  | .e5m2 => .eqE5m2 a b
  | .e4m3fn => .eqE4m3fn a b
  | .e8m0 => .eqE8m0 a b
  | .bf16 => .eqBf16 a b
  | .e2m3fn => .eqE2m3fn a b
  | .e3m2fn => .eqE3m2fn a b
  | .e2m1fn => .eqE2m1fn a b

/-- NE of a format (R71). -/
def neOf (f : Format) (a b : Word) : Instr :=
  match f with
  | .e5m2 => .neE5m2 a b
  | .e4m3fn => .neE4m3fn a b
  | .e8m0 => .neE8m0 a b
  | .bf16 => .neBf16 a b
  | .e2m3fn => .neE2m3fn a b
  | .e3m2fn => .neE3m2fn a b
  | .e2m1fn => .neE2m1fn a b

/-- LT of a format (R71). -/
def ltOf (f : Format) (a b : Word) : Instr :=
  match f with
  | .e5m2 => .ltE5m2 a b
  | .e4m3fn => .ltE4m3fn a b
  | .e8m0 => .ltE8m0 a b
  | .bf16 => .ltBf16 a b
  | .e2m3fn => .ltE2m3fn a b
  | .e3m2fn => .ltE3m2fn a b
  | .e2m1fn => .ltE2m1fn a b

/-- LE of a format (R71). -/
def leOf (f : Format) (a b : Word) : Instr :=
  match f with
  | .e5m2 => .leE5m2 a b
  | .e4m3fn => .leE4m3fn a b
  | .e8m0 => .leE8m0 a b
  | .bf16 => .leBf16 a b
  | .e2m3fn => .leE2m3fn a b
  | .e3m2fn => .leE3m2fn a b
  | .e2m1fn => .leE2m1fn a b

/-- GT of a format (R71). -/
def gtOf (f : Format) (a b : Word) : Instr :=
  match f with
  | .e5m2 => .gtE5m2 a b
  | .e4m3fn => .gtE4m3fn a b
  | .e8m0 => .gtE8m0 a b
  | .bf16 => .gtBf16 a b
  | .e2m3fn => .gtE2m3fn a b
  | .e3m2fn => .gtE3m2fn a b
  | .e2m1fn => .gtE2m1fn a b

/-- GE of a format (R71). -/
def geOf (f : Format) (a b : Word) : Instr :=
  match f with
  | .e5m2 => .geE5m2 a b
  | .e4m3fn => .geE4m3fn a b
  | .e8m0 => .geE8m0 a b
  | .bf16 => .geBf16 a b
  | .e2m3fn => .geE2m3fn a b
  | .e3m2fn => .geE3m2fn a b
  | .e2m1fn => .geE2m1fn a b

/-- The command that an operation and a format name, with its operands; none for NEG of float8_e8m0 (R76). The word `b` of a
unary command is dropped: the response does not depend on it (R74). -/
def commandOf (op : Op) (f : Format) (a b : Word) : Option Instr :=
  match op with
  | .enc => some (encOf f a)
  | .dec => some (decOf f a)
  | .neg => negOf f a
  | .isnz => some (isnzOf f a)
  | .add => some (addOf f a b)
  | .sub => some (subOf f a b)
  | .mul => some (mulOf f a b)
  | .div => some (divOf f a b)
  | .eq => some (eqOf f a b)
  | .ne => some (neOf f a b)
  | .lt => some (ltOf f a b)
  | .le => some (leOf f a b)
  | .gt => some (gtOf f a b)
  | .ge => some (geOf f a b)

/-- The decoder: a request is a command with its operands, or is rejected by name (R76). -/
def decode (p : Params) (q : Request) : Except Reject Instr :=
  match q with
  | ⟨cmd, a, b⟩ =>
    if reservedField cmd ≠ 0 then .error .reservedBits
    else match opOfField (opField cmd) with
      | none => .error .reservedOp
      | some op => match fmtOfField (fmtField cmd) with
        | none => .error .reservedFmt
        | some f =>
          if !p.valueOps && isValueOp op then .error .valueOpsDisabled
          else match commandOf op f a b with
            | none => .error .negE8m0
            | some i => .ok i

/-- The command word `zext_32((fmt << 4) | op)` of an operation and a format (R78). -/
def commandWord (op : Op) (f : Format) : Word := (BitVec.ofNat 32 (fmtCode f) <<< 4) ||| BitVec.ofNat 32 (opCode op)

/-- The encoder: the request of a command. A unary command leaves `b = 0`. -/
def encode (i : Instr) : Request := ⟨commandWord i.op i.fmt, i.opA, i.opB⟩

/-- The request whose bits, numbered from bit 0 of the command word, are `w`: the command word is bits 31..0, `a` bits 63..32
and `b` bits 95..64; bits at and above `nbits` are 0. -/
def tableRequest (nbits w : Nat) : Request :=
  let v := w % 2 ^ nbits
  ⟨BitVec.ofNat 32 v, BitVec.ofNat 32 (v / 2 ^ 32), BitVec.ofNat 32 (v / 2 ^ 64)⟩

/-- What the decoder reads from an instruction whose bits are `w` (for the host), at the block's parameters. -/
def decodeTableWord (nbits w : Nat) : Option Instr :=
  match decode Machine.blockParams (tableRequest nbits w) with
  | .ok i => some i
  | .error _ => none

end Sys2Proof
end

