-- ==== Sys2Proof/Machine/State.lean ====
section
/-! DEFINITION. The state of the block and the outcomes of its steps. The block keeps nothing between commands (R20); what it
holds is the sequence of requests in flight (R30), and what a run has produced is the sequence of responses (R287). -/

namespace Sys2Proof.Machine

/-- A response: the result word and the error bit (R70). -/
structure Response where
  r   : Word
  err : Bool
  deriving DecidableEq, Repr

/-- The state of one instance of the block. There is no register, pc, flag, control register or memory (R25 to R29, R40). -/
structure State where
  /-- The requests in flight, oldest first (R30). -/
  inflight  : List Request
  /-- The responses delivered to the host, oldest first (R284, R287; log entry 2). -/
  responses : List Response
  /-- The number of draws of `ARITH_NAN` made so far: the model's own field (R205; log entry 3). -/
  draws     : Nat
  deriving DecidableEq, Repr

/-- The faults of the machine: none. No operand value faults (R250), an illegal command is answered with `err = 1` and the next
command is served (R251), and no behaviour is stuck (93_implementation_defined.md). Nobody raises a fault, which is safe: every
step goes on, as the spec says it does. -/
inductive Fault where
  deriving DecidableEq, Repr

/-- The refusals of the machine. -/
inductive Refusal where
  /-- Raised by an arm of `exec` for a command without a meaning; no arm raises it now. Safe: the run stops. -/
  | notModelled (mnemonic : String)
  deriving DecidableEq, Repr

/-- Right after reset: nothing in flight, no response (R280). The draw counter's 0 is a DESIGN CHOICE (log entry 3). -/
def State.reset : State := ⟨[], [], 0⟩

end Sys2Proof.Machine
end

