-- ==== Sys2Proof/Machine/Ops.lean ====
section
/-! DEFINITION. The named operations on the state: the host's two (issue a request, assert reset), taking the oldest request,
and the two ways a request is answered: a result, or the IllegalCommand response. -/

namespace Sys2Proof.Machine

/-- The host issues a request: it joins the end of the in-flight sequence (R30, R284, R288). -/
def issue (q : Request) (s : State) : State := { s with inflight := s.inflight ++ [q] }

/-- The host asserts reset: the in-flight sequence is emptied and its requests get no response (R280, R288). What the host
has already received stays received. -/
def assertReset (s : State) : State := { s with inflight := [] }

/-- The oldest request in flight and the state without it; none when nothing is in flight (R30, R284). -/
def takeRequest (s : State) : Option (Request × State) :=
  match s.inflight with
  | [] => none
  | q :: rest => some (q, { s with inflight := rest })

/-- A response joins the end of the responses the host has received (R284). -/
def deliver (resp : Response) (s : State) : State := { s with responses := s.responses ++ [resp] }

/-- `r <- v; err <- 0`: the response of a legal command, and no other effect (R14, R103, R160, R200). -/
def respond (r : Word) (s : State) : Host.Outcome State Fault Refusal := .next (deliver ⟨r, false⟩ s)

/-- `raise IllegalCommand`: `err <- 1; r <- 0` and no other effect; the next command is served normally (R14, R251). The reason
is not recorded, and the operands are not read (R252). -/
def illegalCommand (_why : Reject) (s : State) : Host.Outcome State Fault Refusal := .next (deliver ⟨0#32, true⟩ s)

/-- The current draw of `ARITH_NAN`: a quiet NaN, bits [30:22] all ones, of free sign and payload (R205). -/
def arithNan (s : State) : Word :=
  let free := Config.arithNan s.draws
  (free.extractLsb' 22 1 ++ 0x1FF#9 ++ free.extractLsb' 0 22 : BitVec 32)

/-- The next NaN result is another draw (R205). -/
def advanceDraw (s : State) : State := { s with draws := s.draws + 1 }

end Sys2Proof.Machine
end

