-- ==== Sys2Proof/Machine/Decoder.lean ====
section
/-! DEFINITION. The decoder of codes (42_decode.md): the shared expander, the PowerOfTwoScale and truncate-only decoders, their
dispatch, and the seven DEC commands. -/

namespace Sys2Proof.Machine

/-- The magnitude, in units of `2^-149`, of a code with exponent field `x` and mantissa field `m` that is neither NaN nor
infinity (R162): `m * 2^(1-bias-M)` for `x = 0`, else `(1 + m/2^M) * 2^(x-bias)`. -/
def codeMag (f : Format) (x m : Nat) : Nat :=
  let M := (formatSpec f).mantBits
  let bias := (formatSpec f).bias
  if x = 0 then m * 2 ^ (150 - bias - M) else (2 ^ M + m) * 2 ^ (149 + x - bias - M)

/-- `DecStd` (R162): the specials of the policy (R163, R164; R165 has none), then the value, with the sign applied at the end. -/
def decStd (p : Params) (f : Format) (c : Word) : Word :=
  let s := codeSign f c
  let x := codeExp f c
  let m := codeMant f c
  let policy := (formatSpec f).policy
  if policy = .ieeeLike ∧ x = emaxf f then (if m = 0 then f32Inf s else p.decNan s)
  else if policy = .finiteWithNanSentinel ∧ x = emaxf f ∧ m = mmax f then p.decNan s
  else f32SignBit s ||| f32Bits (codeMag f x m)

/-- `DecP2` (R167), the float8_e8m0 decoder; the result for code 0x00 is the float32 subnormal `2^-127`. -/
def decP2 (p : Params) (c : Word) : Word :=
  if c &&& 0xFF#32 = 0xFF#32 then p.decNan false
  else if c &&& 0xFF#32 = 0x00#32 then 0x00400000#32
  else (c &&& 0xFF#32) <<< 23

/-- `DecTrunc` (R168): the code is the high half of the float32 pattern. -/
def decTrunc (c : Word) : Word := (c &&& 0xFFFF#32) <<< 16

/-- `Dec(f, c)` (R160, R32): `truncate_only` first, then PowerOfTwoScale, then the shared expander. -/
def dec (p : Params) (f : Format) (c : Word) : Word :=
  if (formatSpec f).truncateOnly then decTrunc c
  else match (formatSpec f).policy with
    | .powerOfTwoScale => decP2 p c
    | _                => decStd p f c

/-- The float32 pattern of a code operand at the block's parameters: `Dec(f, w & WMASK)` (R160, R203, R210, R212). -/
def decOperand (f : Format) (w : Word) : Word := dec blockParams f (codeOperand f w)

/-- The common form of the DEC commands (R160). -/
def decCommand (f : Format) (a : Word) (s : State) : Host.Outcome State Fault Refusal :=
  respond (decOperand f a) s

/-- DEC.e5m2 (R172). -/
def execDecE5m2 (a : Word) (s : State) : Host.Outcome State Fault Refusal := decCommand .e5m2 a s

/-- DEC.e4m3fn (R173). -/
def execDecE4m3fn (a : Word) (s : State) : Host.Outcome State Fault Refusal := decCommand .e4m3fn a s

/-- DEC.e8m0 (R174). -/
def execDecE8m0 (a : Word) (s : State) : Host.Outcome State Fault Refusal := decCommand .e8m0 a s

/-- DEC.bf16 (R175). -/
def execDecBf16 (a : Word) (s : State) : Host.Outcome State Fault Refusal := decCommand .bf16 a s

/-- DEC.e2m3fn (R176). -/
def execDecE2m3fn (a : Word) (s : State) : Host.Outcome State Fault Refusal := decCommand .e2m3fn a s

/-- DEC.e3m2fn (R177). -/
def execDecE3m2fn (a : Word) (s : State) : Host.Outcome State Fault Refusal := decCommand .e3m2fn a s

/-- DEC.e2m1fn (R178). -/
def execDecE2m1fn (a : Word) (s : State) : Host.Outcome State Fault Refusal := decCommand .e2m1fn a s

end Sys2Proof.Machine
end

