-- ==== Sys2Proof/Machine/Encoder.lean ====
section
/-! DEFINITION. The encoder (41_encode.md): the shared algorithm, the PowerOfTwoScale and truncate-only encoders, their dispatch,
and the seven ENC commands. -/

namespace Sys2Proof.Machine

/-- Exponent and mantissa field of an infinite input (R106) and of an overflow (R111): infinity for IeeeLike, the NaN sentinel
for FiniteWithNanSentinel, the largest finite code for FiniteSaturating. -/
def overflowFields (f : Format) : Nat × Nat :=
  match (formatSpec f).policy with
  | .ieeeLike => (emaxf f, 0)
  | _         => (emaxf f, mmax f)

/-- Exponent and mantissa field of a NaN input (R106): the quiet NaN `1 << (M-1)` for IeeeLike (D9; log entry 12). -/
def nanFields (f : Format) : Nat × Nat :=
  match (formatSpec f).policy with
  | .ieeeLike => (emaxf f, 2 ^ ((formatSpec f).mantBits - 1))
  | _         => (emaxf f, mmax f)

/-- Step 4a (R109): the magnitude on the subnormal grid, `RHE(mag / STEP)` clamped to `[0, MMAX]`. `mag` is in units of
`2^-149`. With `SUBNORMAL_TOP = carry` a result of `2^M` is the minimum normal code instead (93 row 5). -/
def subnormalFields (p : Params) (f : Format) (mag : Nat) : Nat × Nat :=
  let q := rhe mag (2 ^ (149 + stepExp f).toNat)
  if p.subnormalTop = .carry ∧ q = 2 ^ (formatSpec f).mantBits then (1, 0)
  else (0, (min (max q 0) (mmax f)).toNat)

/-- Steps 4b, 4c and 4e (R110, R111, R113) for an unbiased exponent `e >= emin`. Step 4d is never taken (R112). -/
def normalFields (f : Format) (e : Int) (frac23 : Nat) : Nat × Nat :=
  let mq := rhe frac23 (2 ^ (23 - (formatSpec f).mantBits))
  let carried := mq = 2 ^ (formatSpec f).mantBits
  let e' := if carried then e + 1 else e
  if e' > emax f then overflowFields f
  else ((e' + (formatSpec f).bias).toNat, if carried then 0 else mq.toNat)

/-- Exponent and mantissa field of `EncStd` (R105), the checks in the order of the rule. -/
def encFields (p : Params) (f : Format) (exp8 frac23 : Nat) : Nat × Nat :=
  if exp8 = 255 then (if frac23 = 0 then overflowFields f else nanFields f)
  else if exp8 = 0 ∧ frac23 = 0 then (0, 0)
  else
    let e : Int := if exp8 = 0 then -126 else (exp8 : Int) - 127
    if e < emin f then subnormalFields p f (f32Mag exp8 frac23)
    else normalFields f e frac23

/-- `EncStd` (R105): the sign of the input in the sign bit, on every path. -/
def encStd (p : Params) (f : Format) (a : Word) : Word :=
  let fields := encFields p f (f32Exp a) (f32Frac a)
  packCode f (f32Sign a) fields.1 fields.2

/-- Whether `m < sqrt(2)/2` for the significand `m = mag / 2^digits` of `Frexp` (R117, R118): exactly, as `2 * m^2 < 1`, or
against the binary32 constant 0x3F35_04F3 = 0xB504F3 / 2^24 (93 row 6). -/
def belowP2Threshold (t : P2Threshold) (mag digits : Nat) : Bool :=
  match t with
  | .exact    => 2 * mag ^ 2 < 2 ^ (2 * digits)
  | .binary32 => mag * 2 ^ 24 < 0xB504F3 * 2 ^ digits

/-- `EncP2` (R116), the float8_e8m0 encoder. `Frexp` (R117) of `mag * 2^-149 > 0` is `m = mag / 2^digits`, `e = digits - 149`
with `digits = floor(log2 mag) + 1`. -/
def encP2 (p : Params) (a : Word) : Word :=
  match f32Value a with
  | .nan         => 0xFF#32
  | .inf true    => 0xFF#32
  | .inf false   => 0xFE#32
  | .fin neg mag =>
    if mag = 0 then (if neg then p.e8m0NegZero else 0x00#32)
    else if neg then 0xFF#32
    else
      let digits := Nat.log2 mag + 1
      let e : Int := (digits : Int) - 149
      let k := if belowP2Threshold p.p2Threshold mag digits then e - 1 else e
      BitVec.ofNat 32 (min (max (k + 127) 0) 254).toNat

/-- `EncTrunc` (R119): the top 16 bits. -/
def encTrunc (a : Word) : Word := (a.extractLsb' 16 16).setWidth 32

/-- `Enc(f, a)` (R104, R32): `truncate_only` first, then PowerOfTwoScale, then the shared algorithm. -/
def enc (p : Params) (f : Format) (a : Word) : Word :=
  if (formatSpec f).truncateOnly then encTrunc a
  else match (formatSpec f).policy with
    | .powerOfTwoScale => encP2 p a
    | _                => encStd p f a

/-- The common form of the ENC commands (R103): all of `a` is a float32 pattern, the result is the code zero-extended. -/
def encCommand (f : Format) (a : Word) (s : State) : Host.Outcome State Fault Refusal :=
  respond (enc blockParams f a) s

/-- ENC.e5m2 (R120). -/
def execEncE5m2 (a : Word) (s : State) : Host.Outcome State Fault Refusal := encCommand .e5m2 a s

/-- ENC.e4m3fn (R121). -/
def execEncE4m3fn (a : Word) (s : State) : Host.Outcome State Fault Refusal := encCommand .e4m3fn a s

/-- ENC.e8m0 (R122). -/
def execEncE8m0 (a : Word) (s : State) : Host.Outcome State Fault Refusal := encCommand .e8m0 a s

/-- ENC.bf16 (R123). -/
def execEncBf16 (a : Word) (s : State) : Host.Outcome State Fault Refusal := encCommand .bf16 a s

/-- ENC.e2m3fn (R124). -/
def execEncE2m3fn (a : Word) (s : State) : Host.Outcome State Fault Refusal := encCommand .e2m3fn a s

/-- ENC.e3m2fn (R125). -/
def execEncE3m2fn (a : Word) (s : State) : Host.Outcome State Fault Refusal := encCommand .e3m2fn a s

/-- ENC.e2m1fn (R126). -/
def execEncE2m1fn (a : Word) (s : State) : Host.Outcome State Fault Refusal := encCommand .e2m1fn a s

end Sys2Proof.Machine
end

