-- ==== Sys2Proof/Machine/Arithmetic.lean ====
section
/-! DEFINITION. ADD, SUB, MUL and DIV (R203 to R209): decode both operands, one binary32 operation, encode. -/

namespace Sys2Proof.Machine

/-- `Arith(f, op, a, b)` (R203). When the float32 operation gives a NaN, its pattern is the draw `ARITH_NAN`, and the draw is
used up (R205; log entry 3); everything else of the command is as the rule says. -/
def arithCommand (f : Format) (op : Word → Word → Option Word) (a b : Word) (s : State) :
    Host.Outcome State Fault Refusal :=
  match op (decOperand f a) (decOperand f b) with
  | some z => respond (enc blockParams f z) s
  | none   => respond (enc blockParams f (arithNan s)) (advanceDraw s)

/-- ADD.e5m2 (R206). -/
def execAddE5m2 (a b : Word) (s : State) : Host.Outcome State Fault Refusal := arithCommand .e5m2 f32Add a b s

/-- ADD.e4m3fn (R206). -/
def execAddE4m3fn (a b : Word) (s : State) : Host.Outcome State Fault Refusal := arithCommand .e4m3fn f32Add a b s

/-- ADD.e8m0 (R206). -/
def execAddE8m0 (a b : Word) (s : State) : Host.Outcome State Fault Refusal := arithCommand .e8m0 f32Add a b s

/-- ADD.bf16 (R206). -/
def execAddBf16 (a b : Word) (s : State) : Host.Outcome State Fault Refusal := arithCommand .bf16 f32Add a b s

/-- ADD.e2m3fn (R206). -/
def execAddE2m3fn (a b : Word) (s : State) : Host.Outcome State Fault Refusal := arithCommand .e2m3fn f32Add a b s

/-- ADD.e3m2fn (R206). -/
def execAddE3m2fn (a b : Word) (s : State) : Host.Outcome State Fault Refusal := arithCommand .e3m2fn f32Add a b s

/-- ADD.e2m1fn (R206). -/
def execAddE2m1fn (a b : Word) (s : State) : Host.Outcome State Fault Refusal := arithCommand .e2m1fn f32Add a b s

/-- SUB.e5m2 (R207). -/
def execSubE5m2 (a b : Word) (s : State) : Host.Outcome State Fault Refusal := arithCommand .e5m2 f32Sub a b s

/-- SUB.e4m3fn (R207). -/
def execSubE4m3fn (a b : Word) (s : State) : Host.Outcome State Fault Refusal := arithCommand .e4m3fn f32Sub a b s

/-- SUB.e8m0 (R207). -/
def execSubE8m0 (a b : Word) (s : State) : Host.Outcome State Fault Refusal := arithCommand .e8m0 f32Sub a b s

/-- SUB.bf16 (R207). -/
def execSubBf16 (a b : Word) (s : State) : Host.Outcome State Fault Refusal := arithCommand .bf16 f32Sub a b s

/-- SUB.e2m3fn (R207). -/
def execSubE2m3fn (a b : Word) (s : State) : Host.Outcome State Fault Refusal := arithCommand .e2m3fn f32Sub a b s

/-- SUB.e3m2fn (R207). -/
def execSubE3m2fn (a b : Word) (s : State) : Host.Outcome State Fault Refusal := arithCommand .e3m2fn f32Sub a b s

/-- SUB.e2m1fn (R207). -/
def execSubE2m1fn (a b : Word) (s : State) : Host.Outcome State Fault Refusal := arithCommand .e2m1fn f32Sub a b s

/-- MUL.e5m2 (R208). -/
def execMulE5m2 (a b : Word) (s : State) : Host.Outcome State Fault Refusal := arithCommand .e5m2 f32Mul a b s

/-- MUL.e4m3fn (R208). -/
def execMulE4m3fn (a b : Word) (s : State) : Host.Outcome State Fault Refusal := arithCommand .e4m3fn f32Mul a b s

/-- MUL.e8m0 (R208). -/
def execMulE8m0 (a b : Word) (s : State) : Host.Outcome State Fault Refusal := arithCommand .e8m0 f32Mul a b s

/-- MUL.bf16 (R208). -/
def execMulBf16 (a b : Word) (s : State) : Host.Outcome State Fault Refusal := arithCommand .bf16 f32Mul a b s

/-- MUL.e2m3fn (R208). -/
def execMulE2m3fn (a b : Word) (s : State) : Host.Outcome State Fault Refusal := arithCommand .e2m3fn f32Mul a b s

/-- MUL.e3m2fn (R208). -/
def execMulE3m2fn (a b : Word) (s : State) : Host.Outcome State Fault Refusal := arithCommand .e3m2fn f32Mul a b s

/-- MUL.e2m1fn (R208). -/
def execMulE2m1fn (a b : Word) (s : State) : Host.Outcome State Fault Refusal := arithCommand .e2m1fn f32Mul a b s

/-- DIV.e5m2 (R209). -/
def execDivE5m2 (a b : Word) (s : State) : Host.Outcome State Fault Refusal := arithCommand .e5m2 f32Div a b s

/-- DIV.e4m3fn (R209). -/
def execDivE4m3fn (a b : Word) (s : State) : Host.Outcome State Fault Refusal := arithCommand .e4m3fn f32Div a b s

/-- DIV.e8m0 (R209). -/
def execDivE8m0 (a b : Word) (s : State) : Host.Outcome State Fault Refusal := arithCommand .e8m0 f32Div a b s

/-- DIV.bf16 (R209). -/
def execDivBf16 (a b : Word) (s : State) : Host.Outcome State Fault Refusal := arithCommand .bf16 f32Div a b s

/-- DIV.e2m3fn (R209). -/
def execDivE2m3fn (a b : Word) (s : State) : Host.Outcome State Fault Refusal := arithCommand .e2m3fn f32Div a b s

/-- DIV.e3m2fn (R209). -/
def execDivE3m2fn (a b : Word) (s : State) : Host.Outcome State Fault Refusal := arithCommand .e3m2fn f32Div a b s

/-- DIV.e2m1fn (R209). -/
def execDivE2m1fn (a b : Word) (s : State) : Host.Outcome State Fault Refusal := arithCommand .e2m1fn f32Div a b s

end Sys2Proof.Machine
end

