-- ==== Sys2Proof/Machine/Flags.lean ====
section
/-! DEFINITION. The block has no flag and no condition code (R27, R254). The only truth values a command computes are Boolean
result words (R75) and the error bit of its response (R251). -/

namespace Sys2Proof.Machine

/-- A Boolean result word: 1 for true, 0 for false, bits [31:1] zero (R75). -/
def boolWord (b : Bool) : Word := BitVec.ofNat 32 b.toNat

end Sys2Proof.Machine
end

