-- ==== Sys2Proof/Machine/Compare.lean ====
section
/-! DEFINITION. EQ and NE with the NaN quirk (R210, R211), and the ordered comparisons LT, LE, GT, GE (R212 to R215). -/

namespace Sys2Proof.Machine

/-- Equality of two float32 patterns (R210): the same bits, or both NaN; with `EQ_ZERO = ieee` also two zeros (93 row 7). -/
def f32Equal (z : EqZero) (x y : Word) : Bool :=
  x = y || (isNaN32 x && isNaN32 y) ||
    (z = .ieee && x &&& 0x7FFFFFFF#32 = 0#32 && y &&& 0x7FFFFFFF#32 = 0#32)

/-- Whether two code operands are equal (R210). -/
def codesEqual (f : Format) (a b : Word) : Bool :=
  f32Equal blockParams.eqZero (decOperand f a) (decOperand f b)

/-- The common form of the EQ commands (R210). -/
def eqCommand (f : Format) (a b : Word) (s : State) : Host.Outcome State Fault Refusal :=
  respond (boolWord (codesEqual f a b)) s

/-- The common form of the NE commands: `1 - EQ` (R211). -/
def neCommand (f : Format) (a b : Word) (s : State) : Host.Outcome State Fault Refusal :=
  respond (1#32 - boolWord (codesEqual f a b)) s

/-- `Ordered(f, rel, a, b)` (R212): false when either operand is a NaN, else the relation of the two values. -/
def ordered (f : Format) (rel : Ordering → Bool) (a b : Word) : Bool :=
  match f32Compare (f32Value (decOperand f a)) (f32Value (decOperand f b)) with
  | none   => false
  | some o => rel o

/-- The common form of the ordered comparisons (R212 to R215). -/
def orderedCommand (f : Format) (rel : Ordering → Bool) (a b : Word) (s : State) :
    Host.Outcome State Fault Refusal :=
  respond (boolWord (ordered f rel a b)) s

/-- EQ.e5m2 (R210). -/
def execEqE5m2 (a b : Word) (s : State) : Host.Outcome State Fault Refusal := eqCommand .e5m2 a b s

/-- EQ.e4m3fn (R210). -/
def execEqE4m3fn (a b : Word) (s : State) : Host.Outcome State Fault Refusal := eqCommand .e4m3fn a b s

/-- EQ.e8m0 (R210). -/
def execEqE8m0 (a b : Word) (s : State) : Host.Outcome State Fault Refusal := eqCommand .e8m0 a b s

/-- EQ.bf16 (R210). -/
def execEqBf16 (a b : Word) (s : State) : Host.Outcome State Fault Refusal := eqCommand .bf16 a b s

/-- EQ.e2m3fn (R210). -/
def execEqE2m3fn (a b : Word) (s : State) : Host.Outcome State Fault Refusal := eqCommand .e2m3fn a b s

/-- EQ.e3m2fn (R210). -/
def execEqE3m2fn (a b : Word) (s : State) : Host.Outcome State Fault Refusal := eqCommand .e3m2fn a b s

/-- EQ.e2m1fn (R210). -/
def execEqE2m1fn (a b : Word) (s : State) : Host.Outcome State Fault Refusal := eqCommand .e2m1fn a b s

/-- NE.e5m2 (R211). -/
def execNeE5m2 (a b : Word) (s : State) : Host.Outcome State Fault Refusal := neCommand .e5m2 a b s

/-- NE.e4m3fn (R211). -/
def execNeE4m3fn (a b : Word) (s : State) : Host.Outcome State Fault Refusal := neCommand .e4m3fn a b s

/-- NE.e8m0 (R211). -/
def execNeE8m0 (a b : Word) (s : State) : Host.Outcome State Fault Refusal := neCommand .e8m0 a b s

/-- NE.bf16 (R211). -/
def execNeBf16 (a b : Word) (s : State) : Host.Outcome State Fault Refusal := neCommand .bf16 a b s

/-- NE.e2m3fn (R211). -/
def execNeE2m3fn (a b : Word) (s : State) : Host.Outcome State Fault Refusal := neCommand .e2m3fn a b s

/-- NE.e3m2fn (R211). -/
def execNeE3m2fn (a b : Word) (s : State) : Host.Outcome State Fault Refusal := neCommand .e3m2fn a b s

/-- NE.e2m1fn (R211). -/
def execNeE2m1fn (a b : Word) (s : State) : Host.Outcome State Fault Refusal := neCommand .e2m1fn a b s

/-- LT.e5m2 (R212). -/
def execLtE5m2 (a b : Word) (s : State) : Host.Outcome State Fault Refusal := orderedCommand .e5m2 Ordering.isLT a b s

/-- LT.e4m3fn (R212). -/
def execLtE4m3fn (a b : Word) (s : State) : Host.Outcome State Fault Refusal := orderedCommand .e4m3fn Ordering.isLT a b s

/-- LT.e8m0 (R212). -/
def execLtE8m0 (a b : Word) (s : State) : Host.Outcome State Fault Refusal := orderedCommand .e8m0 Ordering.isLT a b s

/-- LT.bf16 (R212). -/
def execLtBf16 (a b : Word) (s : State) : Host.Outcome State Fault Refusal := orderedCommand .bf16 Ordering.isLT a b s

/-- LT.e2m3fn (R212). -/
def execLtE2m3fn (a b : Word) (s : State) : Host.Outcome State Fault Refusal := orderedCommand .e2m3fn Ordering.isLT a b s

/-- LT.e3m2fn (R212). -/
def execLtE3m2fn (a b : Word) (s : State) : Host.Outcome State Fault Refusal := orderedCommand .e3m2fn Ordering.isLT a b s

/-- LT.e2m1fn (R212). -/
def execLtE2m1fn (a b : Word) (s : State) : Host.Outcome State Fault Refusal := orderedCommand .e2m1fn Ordering.isLT a b s

/-- LE.e5m2 (R213). -/
def execLeE5m2 (a b : Word) (s : State) : Host.Outcome State Fault Refusal := orderedCommand .e5m2 Ordering.isLE a b s

/-- LE.e4m3fn (R213). -/
def execLeE4m3fn (a b : Word) (s : State) : Host.Outcome State Fault Refusal := orderedCommand .e4m3fn Ordering.isLE a b s

/-- LE.e8m0 (R213). -/
def execLeE8m0 (a b : Word) (s : State) : Host.Outcome State Fault Refusal := orderedCommand .e8m0 Ordering.isLE a b s

/-- LE.bf16 (R213). -/
def execLeBf16 (a b : Word) (s : State) : Host.Outcome State Fault Refusal := orderedCommand .bf16 Ordering.isLE a b s

/-- LE.e2m3fn (R213). -/
def execLeE2m3fn (a b : Word) (s : State) : Host.Outcome State Fault Refusal := orderedCommand .e2m3fn Ordering.isLE a b s

/-- LE.e3m2fn (R213). -/
def execLeE3m2fn (a b : Word) (s : State) : Host.Outcome State Fault Refusal := orderedCommand .e3m2fn Ordering.isLE a b s

/-- LE.e2m1fn (R213). -/
def execLeE2m1fn (a b : Word) (s : State) : Host.Outcome State Fault Refusal := orderedCommand .e2m1fn Ordering.isLE a b s

/-- GT.e5m2 (R214). -/
def execGtE5m2 (a b : Word) (s : State) : Host.Outcome State Fault Refusal := orderedCommand .e5m2 Ordering.isGT a b s

/-- GT.e4m3fn (R214). -/
def execGtE4m3fn (a b : Word) (s : State) : Host.Outcome State Fault Refusal := orderedCommand .e4m3fn Ordering.isGT a b s

/-- GT.e8m0 (R214). -/
def execGtE8m0 (a b : Word) (s : State) : Host.Outcome State Fault Refusal := orderedCommand .e8m0 Ordering.isGT a b s

/-- GT.bf16 (R214). -/
def execGtBf16 (a b : Word) (s : State) : Host.Outcome State Fault Refusal := orderedCommand .bf16 Ordering.isGT a b s

/-- GT.e2m3fn (R214). -/
def execGtE2m3fn (a b : Word) (s : State) : Host.Outcome State Fault Refusal := orderedCommand .e2m3fn Ordering.isGT a b s

/-- GT.e3m2fn (R214). -/
def execGtE3m2fn (a b : Word) (s : State) : Host.Outcome State Fault Refusal := orderedCommand .e3m2fn Ordering.isGT a b s

/-- GT.e2m1fn (R214). -/
def execGtE2m1fn (a b : Word) (s : State) : Host.Outcome State Fault Refusal := orderedCommand .e2m1fn Ordering.isGT a b s

/-- GE.e5m2 (R215). -/
def execGeE5m2 (a b : Word) (s : State) : Host.Outcome State Fault Refusal := orderedCommand .e5m2 Ordering.isGE a b s

/-- GE.e4m3fn (R215). -/
def execGeE4m3fn (a b : Word) (s : State) : Host.Outcome State Fault Refusal := orderedCommand .e4m3fn Ordering.isGE a b s

/-- GE.e8m0 (R215). -/
def execGeE8m0 (a b : Word) (s : State) : Host.Outcome State Fault Refusal := orderedCommand .e8m0 Ordering.isGE a b s

/-- GE.bf16 (R215). -/
def execGeBf16 (a b : Word) (s : State) : Host.Outcome State Fault Refusal := orderedCommand .bf16 Ordering.isGE a b s

/-- GE.e2m3fn (R215). -/
def execGeE2m3fn (a b : Word) (s : State) : Host.Outcome State Fault Refusal := orderedCommand .e2m3fn Ordering.isGE a b s

/-- GE.e3m2fn (R215). -/
def execGeE3m2fn (a b : Word) (s : State) : Host.Outcome State Fault Refusal := orderedCommand .e3m2fn Ordering.isGE a b s

/-- GE.e2m1fn (R215). -/
def execGeE2m1fn (a b : Word) (s : State) : Host.Outcome State Fault Refusal := orderedCommand .e2m1fn Ordering.isGE a b s

end Sys2Proof.Machine
end

