-- ==== Sys2Proof/Machine/Unary.lean ====
section
/-! DEFINITION. The unary value operations on codes: NEG (R201) and ISNZ (R202). Neither decodes nor encodes. -/

namespace Sys2Proof.Machine

/-- The sign bit of a code flipped, on the code alone: NaN codes stay NaN codes (R201). -/
def negCode (f : Format) (w : Word) : Word := codeOperand f w ^^^ smask f

/-- Whether a code is nonzero (R202): always for PowerOfTwoScale (C8), else when a bit other than the sign is set. -/
def codeNonzero (f : Format) (w : Word) : Bool :=
  match (formatSpec f).policy with
  | .powerOfTwoScale => true
  | _                => codeOperand f w &&& ~~~ smask f ≠ 0#32

/-- The common form of the NEG commands (R201). -/
def negCommand (f : Format) (a : Word) (s : State) : Host.Outcome State Fault Refusal :=
  respond (negCode f a) s

/-- The common form of the ISNZ commands (R202). -/
def isnzCommand (f : Format) (a : Word) (s : State) : Host.Outcome State Fault Refusal :=
  respond (boolWord (codeNonzero f a)) s

/-- NEG.e5m2 (R201). -/
def execNegE5m2 (a : Word) (s : State) : Host.Outcome State Fault Refusal := negCommand .e5m2 a s

/-- NEG.e4m3fn (R201). -/
def execNegE4m3fn (a : Word) (s : State) : Host.Outcome State Fault Refusal := negCommand .e4m3fn a s

/-- NEG.bf16 (R201). -/
def execNegBf16 (a : Word) (s : State) : Host.Outcome State Fault Refusal := negCommand .bf16 a s

/-- NEG.e2m3fn (R201). -/
def execNegE2m3fn (a : Word) (s : State) : Host.Outcome State Fault Refusal := negCommand .e2m3fn a s

/-- NEG.e3m2fn (R201). -/
def execNegE3m2fn (a : Word) (s : State) : Host.Outcome State Fault Refusal := negCommand .e3m2fn a s

/-- NEG.e2m1fn (R201). -/
def execNegE2m1fn (a : Word) (s : State) : Host.Outcome State Fault Refusal := negCommand .e2m1fn a s

/-- ISNZ.e5m2 (R202). -/
def execIsnzE5m2 (a : Word) (s : State) : Host.Outcome State Fault Refusal := isnzCommand .e5m2 a s

/-- ISNZ.e4m3fn (R202). -/
def execIsnzE4m3fn (a : Word) (s : State) : Host.Outcome State Fault Refusal := isnzCommand .e4m3fn a s

/-- ISNZ.e8m0 (R202). -/
def execIsnzE8m0 (a : Word) (s : State) : Host.Outcome State Fault Refusal := isnzCommand .e8m0 a s

/-- ISNZ.bf16 (R202). -/
def execIsnzBf16 (a : Word) (s : State) : Host.Outcome State Fault Refusal := isnzCommand .bf16 a s

/-- ISNZ.e2m3fn (R202). -/
def execIsnzE2m3fn (a : Word) (s : State) : Host.Outcome State Fault Refusal := isnzCommand .e2m3fn a s

/-- ISNZ.e3m2fn (R202). -/
def execIsnzE3m2fn (a : Word) (s : State) : Host.Outcome State Fault Refusal := isnzCommand .e3m2fn a s

/-- ISNZ.e2m1fn (R202). -/
def execIsnzE2m1fn (a : Word) (s : State) : Host.Outcome State Fault Refusal := isnzCommand .e2m1fn a s

end Sys2Proof.Machine
end

