-- ==== Sys2Proof/Machine/Dispatch.lean ====
section
/-! DEFINITION. One arm per command: which meaning gives its effect. -/

namespace Sys2Proof.Machine

def exec (i : Instr) (s : State) : Host.Outcome State Fault Refusal :=
  match i with
  | .encE5m2 a => Sys2Proof.Machine.execEncE5m2 a s
  | .encE4m3fn a => Sys2Proof.Machine.execEncE4m3fn a s
  | .encE8m0 a => Sys2Proof.Machine.execEncE8m0 a s
  | .encBf16 a => Sys2Proof.Machine.execEncBf16 a s
  | .encE2m3fn a => Sys2Proof.Machine.execEncE2m3fn a s
  | .encE3m2fn a => Sys2Proof.Machine.execEncE3m2fn a s
  | .encE2m1fn a => Sys2Proof.Machine.execEncE2m1fn a s
  | .decE5m2 a => Sys2Proof.Machine.execDecE5m2 a s
  | .decE4m3fn a => Sys2Proof.Machine.execDecE4m3fn a s
  | .decE8m0 a => Sys2Proof.Machine.execDecE8m0 a s
  | .decBf16 a => Sys2Proof.Machine.execDecBf16 a s
  | .decE2m3fn a => Sys2Proof.Machine.execDecE2m3fn a s
  | .decE3m2fn a => Sys2Proof.Machine.execDecE3m2fn a s
  | .decE2m1fn a => Sys2Proof.Machine.execDecE2m1fn a s
  | .negE5m2 a => Sys2Proof.Machine.execNegE5m2 a s
  | .negE4m3fn a => Sys2Proof.Machine.execNegE4m3fn a s
  | .negBf16 a => Sys2Proof.Machine.execNegBf16 a s
  | .negE2m3fn a => Sys2Proof.Machine.execNegE2m3fn a s
  | .negE3m2fn a => Sys2Proof.Machine.execNegE3m2fn a s
  | .negE2m1fn a => Sys2Proof.Machine.execNegE2m1fn a s
  | .isnzE5m2 a => Sys2Proof.Machine.execIsnzE5m2 a s
  | .isnzE4m3fn a => Sys2Proof.Machine.execIsnzE4m3fn a s
  | .isnzE8m0 a => Sys2Proof.Machine.execIsnzE8m0 a s
  | .isnzBf16 a => Sys2Proof.Machine.execIsnzBf16 a s
  | .isnzE2m3fn a => Sys2Proof.Machine.execIsnzE2m3fn a s
  | .isnzE3m2fn a => Sys2Proof.Machine.execIsnzE3m2fn a s
  | .isnzE2m1fn a => Sys2Proof.Machine.execIsnzE2m1fn a s
  | .addE5m2 a b => Sys2Proof.Machine.execAddE5m2 a b s
  | .addE4m3fn a b => Sys2Proof.Machine.execAddE4m3fn a b s
  | .addE8m0 a b => Sys2Proof.Machine.execAddE8m0 a b s
  | .addBf16 a b => Sys2Proof.Machine.execAddBf16 a b s
  | .addE2m3fn a b => Sys2Proof.Machine.execAddE2m3fn a b s
  | .addE3m2fn a b => Sys2Proof.Machine.execAddE3m2fn a b s
  | .addE2m1fn a b => Sys2Proof.Machine.execAddE2m1fn a b s
  | .subE5m2 a b => Sys2Proof.Machine.execSubE5m2 a b s
  | .subE4m3fn a b => Sys2Proof.Machine.execSubE4m3fn a b s
  | .subE8m0 a b => Sys2Proof.Machine.execSubE8m0 a b s
  | .subBf16 a b => Sys2Proof.Machine.execSubBf16 a b s
  | .subE2m3fn a b => Sys2Proof.Machine.execSubE2m3fn a b s
  | .subE3m2fn a b => Sys2Proof.Machine.execSubE3m2fn a b s
  | .subE2m1fn a b => Sys2Proof.Machine.execSubE2m1fn a b s
  | .mulE5m2 a b => Sys2Proof.Machine.execMulE5m2 a b s
  | .mulE4m3fn a b => Sys2Proof.Machine.execMulE4m3fn a b s
  | .mulE8m0 a b => Sys2Proof.Machine.execMulE8m0 a b s
  | .mulBf16 a b => Sys2Proof.Machine.execMulBf16 a b s
  | .mulE2m3fn a b => Sys2Proof.Machine.execMulE2m3fn a b s
  | .mulE3m2fn a b => Sys2Proof.Machine.execMulE3m2fn a b s
  | .mulE2m1fn a b => Sys2Proof.Machine.execMulE2m1fn a b s
  | .divE5m2 a b => Sys2Proof.Machine.execDivE5m2 a b s
  | .divE4m3fn a b => Sys2Proof.Machine.execDivE4m3fn a b s
  | .divE8m0 a b => Sys2Proof.Machine.execDivE8m0 a b s
  | .divBf16 a b => Sys2Proof.Machine.execDivBf16 a b s
  | .divE2m3fn a b => Sys2Proof.Machine.execDivE2m3fn a b s
  | .divE3m2fn a b => Sys2Proof.Machine.execDivE3m2fn a b s
  | .divE2m1fn a b => Sys2Proof.Machine.execDivE2m1fn a b s
  | .eqE5m2 a b => Sys2Proof.Machine.execEqE5m2 a b s
  | .eqE4m3fn a b => Sys2Proof.Machine.execEqE4m3fn a b s
  | .eqE8m0 a b => Sys2Proof.Machine.execEqE8m0 a b s
  | .eqBf16 a b => Sys2Proof.Machine.execEqBf16 a b s
  | .eqE2m3fn a b => Sys2Proof.Machine.execEqE2m3fn a b s
  | .eqE3m2fn a b => Sys2Proof.Machine.execEqE3m2fn a b s
  | .eqE2m1fn a b => Sys2Proof.Machine.execEqE2m1fn a b s
  | .neE5m2 a b => Sys2Proof.Machine.execNeE5m2 a b s
  | .neE4m3fn a b => Sys2Proof.Machine.execNeE4m3fn a b s
  | .neE8m0 a b => Sys2Proof.Machine.execNeE8m0 a b s
  | .neBf16 a b => Sys2Proof.Machine.execNeBf16 a b s
  | .neE2m3fn a b => Sys2Proof.Machine.execNeE2m3fn a b s
  | .neE3m2fn a b => Sys2Proof.Machine.execNeE3m2fn a b s
  | .neE2m1fn a b => Sys2Proof.Machine.execNeE2m1fn a b s
  | .ltE5m2 a b => Sys2Proof.Machine.execLtE5m2 a b s
  | .ltE4m3fn a b => Sys2Proof.Machine.execLtE4m3fn a b s
  | .ltE8m0 a b => Sys2Proof.Machine.execLtE8m0 a b s
  | .ltBf16 a b => Sys2Proof.Machine.execLtBf16 a b s
  | .ltE2m3fn a b => Sys2Proof.Machine.execLtE2m3fn a b s
  | .ltE3m2fn a b => Sys2Proof.Machine.execLtE3m2fn a b s
  | .ltE2m1fn a b => Sys2Proof.Machine.execLtE2m1fn a b s
  | .leE5m2 a b => Sys2Proof.Machine.execLeE5m2 a b s
  | .leE4m3fn a b => Sys2Proof.Machine.execLeE4m3fn a b s
  | .leE8m0 a b => Sys2Proof.Machine.execLeE8m0 a b s
  | .leBf16 a b => Sys2Proof.Machine.execLeBf16 a b s
  | .leE2m3fn a b => Sys2Proof.Machine.execLeE2m3fn a b s
  | .leE3m2fn a b => Sys2Proof.Machine.execLeE3m2fn a b s
  | .leE2m1fn a b => Sys2Proof.Machine.execLeE2m1fn a b s
  | .gtE5m2 a b => Sys2Proof.Machine.execGtE5m2 a b s
  | .gtE4m3fn a b => Sys2Proof.Machine.execGtE4m3fn a b s
  | .gtE8m0 a b => Sys2Proof.Machine.execGtE8m0 a b s
  | .gtBf16 a b => Sys2Proof.Machine.execGtBf16 a b s
  | .gtE2m3fn a b => Sys2Proof.Machine.execGtE2m3fn a b s
  | .gtE3m2fn a b => Sys2Proof.Machine.execGtE3m2fn a b s
  | .gtE2m1fn a b => Sys2Proof.Machine.execGtE2m1fn a b s
  | .geE5m2 a b => Sys2Proof.Machine.execGeE5m2 a b s
  | .geE4m3fn a b => Sys2Proof.Machine.execGeE4m3fn a b s
  | .geE8m0 a b => Sys2Proof.Machine.execGeE8m0 a b s
  | .geBf16 a b => Sys2Proof.Machine.execGeBf16 a b s
  | .geE2m3fn a b => Sys2Proof.Machine.execGeE2m3fn a b s
  | .geE3m2fn a b => Sys2Proof.Machine.execGeE3m2fn a b s
  | .geE2m1fn a b => Sys2Proof.Machine.execGeE2m1fn a b s

end Sys2Proof.Machine
end

