-- ==== Sys2Proof/Machine/Step.lean ====
section
/-! DEFINITION. One step of the block: the oldest request in flight is decoded and answered (R20, R45, R284). -/

namespace Sys2Proof.Machine

/-- One step. With nothing in flight the block waits for a request and nothing changes (R282; log entry 5); an illegal command is
answered with the IllegalCommand response (R251). -/
def step (s : State) : Host.Outcome State Fault Refusal :=
  match takeRequest s with
  | none => .next s
  | some (q, s') =>
    match decode blockParams q with
    | .ok i    => exec i s'
    | .error e => illegalCommand e s'

/-- `s` with the request of a table word as the oldest in flight, so that the next step serves it (log entry 21). -/
def State.withFetchWord (s : State) (nbits w : Nat) : State :=
  { s with inflight := tableRequest nbits w :: s.inflight }

end Sys2Proof.Machine
end

