-- ==== Sys2Proof/Machine/HostSide.lean ====
section
/-! DEFINITION. The host's side of the codec, outside the block (R4, R31, R217): QUANT, the float64 and integer front ends, the
widening to float64, and the storage of codes. Pure functions over what the commands compute; no step calls them. -/

namespace Sys2Proof.Machine

/-- `QUANT.fmt A`: ENC then DEC, a float32 value rounded onto the format's grid (R79). -/
def quant (f : Format) (a : Word) : Word := decOperand f (enc blockParams f a)

/-- The default value of a minifloat: code 0 (R31, R217). -/
def defaultCode : Word := 0#32

/-- `from_rep`: a raw code is stored unchecked; every command masks it on use (R217, R66). -/
def fromRep (raw : Word) : Word := raw

/-- `rep`: the stored code (R217). -/
def rep (stored : Word) : Word := stored

/-- The bytes a stored code takes (R42). -/
def storageBytes (f : Format) : Nat := if (formatSpec f).totalBits ≤ 8 then 1 else 2

/-- The bytes of a stored code at rising addresses: right-justified, unused high bits cleared (R43, C1); a bfloat16 code in
the byte order given (R12, D19). -/
def storeCode (order : ByteOrder) (f : Format) (code : Word) : List (BitVec 8) :=
  let c := codeOperand f code
  if storageBytes f = 1 then [c.extractLsb' 0 8]
  else match order with
    | .little => [c.extractLsb' 0 8, c.extractLsb' 8 8]
    | .big    => [c.extractLsb' 8 8, c.extractLsb' 0 8]

/-- A code read back from its stored bytes: unused high bits are ignored (R43). None when the number of bytes is not the
format's (R42). -/
def loadCode (order : ByteOrder) (f : Format) (bytes : List (BitVec 8)) : Option Word :=
  match bytes with
  | [b0] => if storageBytes f = 1 then some (codeOperand f (b0.setWidth 32)) else none
  | [b0, b1] =>
    if storageBytes f = 1 then none
    else match order with
      | .little => some (codeOperand f ((b1 ++ b0).setWidth 32))
      | .big    => some (codeOperand f ((b0 ++ b1).setWidth 32))
  | _ => none

/-- The sign of a float64 pattern. -/
def f64Sign (d : BitVec 64) : Bool := d.getLsbD 63

/-- The biased exponent of a float64 pattern. -/
def f64Exp (d : BitVec 64) : Nat := (d.extractLsb' 52 11).toNat

/-- The fraction of a float64 pattern. -/
def f64Frac (d : BitVec 64) : Nat := (d.extractLsb' 0 52).toNat

/-- The magnitude of a finite float64 in units of `2^-1074`. -/
def f64Mag (exp11 frac52 : Nat) : Nat :=
  if exp11 = 0 then frac52 else (2 ^ 52 + frac52) * 2 ^ (exp11 - 1)

/-- Narrowing a float64 to float32 (R102): round to nearest even, overflow to a signed infinity, signed zeros kept, a NaN kept
as a NaN of the same sign whose fraction is host-defined (log entry 19). -/
def narrowF64 (d : BitVec 64) : Word :=
  if f64Exp d = 2047 then
    if f64Frac d = 0 then f32Inf (f64Sign d)
    else
      let free := Config.narrowNan d
      f32Inf (f64Sign d) ||| (if free = 0#23 then 1#23 else free).setWidth 32
  else f32Round (f64Sign d) (f64Mag (f64Exp d) (f64Frac d)) (2 ^ 925)

/-- Converting an integer to float32 (R102): round to nearest even, overflow to a signed infinity. -/
def intToF32 (z : Int) : Word := f32Round (z < 0) (z.natAbs * 2 ^ 149) 1

/-- Encoding a float64: narrow, then ENC (R102, R217). -/
def encodeF64 (f : Format) (d : BitVec 64) : Word := enc blockParams f (narrowF64 d)

/-- Encoding an integer: convert, then ENC (R102, R217). -/
def encodeInt (f : Format) (z : Int) : Word := enc blockParams f (intToF32 z)

/-- The float64 pattern, sign bit 0, of a magnitude in units of `2^-1074` that is exactly representable. -/
def f64Bits (mag : Nat) : BitVec 64 :=
  let shift := Nat.log2 mag - 52
  BitVec.ofNat 64 (shift * 2 ^ 52 + mag / 2 ^ shift)

/-- Widening a float32 to float64 (R171): exact for finite values and infinities; a NaN stays a NaN, which one is host-defined
(log entry 19). -/
def widenF32 (w : Word) : BitVec 64 :=
  match f32Value w with
  | .nan =>
    let free := Config.widenNan w
    let frac := free.extractLsb' 0 52
    (free.extractLsb' 52 1 ++ 0x7FF#11 ++ (if frac = 0#52 then 1#52 else frac) : BitVec 64)
  | .inf s => (BitVec.ofBool s ++ 0x7FF#11 ++ 0#52 : BitVec 64)
  | .fin s mag => (BitVec.ofNat 64 s.toNat <<< 63) ||| f64Bits (mag * 2 ^ 925)

/-- `to_f64` of a code: DEC, then the exact widening (R171, R217). -/
def codeToF64 (f : Format) (c : Word) : BitVec 64 := widenF32 (decOperand f c)

end Sys2Proof.Machine
end

