-- ==== Sys2Proof/Safety.lean ====
section
/-! DEFINITION. What counts as a safe run, and the terms in which statements speak of answers and runs. -/

namespace Sys2Proof.Safety

open Sys2Proof.Machine

/-- `s` with a legal command's response `r` delivered: nothing else changes (R103, R160, R200). -/
def answered (r : Word) (s : State) : State := deliver ⟨r, false⟩ s

/-- `s` with the IllegalCommand response delivered: nothing else changes (R251). -/
def answeredIllegal (s : State) : State := deliver ⟨0#32, true⟩ s

/-- `s` after an arithmetic command whose float32 operation gave `res`: its encoding, or, for a NaN result (`none`), the
encoding of the current draw, which is then used up (R203, R205). -/
def arithAnswered (f : Format) (res : Option Word) (s : State) : State :=
  match res with
  | some z => answered (enc blockParams f z) s
  | none   => answered (enc blockParams f (arithNan s)) (advanceDraw s)

/-- An illegal command word, by its bits (R76): a reserved bit, op 14 or 15, fmt 7, NEG of float8_e8m0, or a value operation
when `VALUE_OPS = 0`. -/
def illegalWord (p : Params) (cmd : Word) : Bool :=
  cmd.extractLsb' 7 25 ≠ 0#25 ∨ 14#4 ≤ cmd.extractLsb' 0 4 ∨ cmd.extractLsb' 4 3 = 7#3 ∨
    (cmd.extractLsb' 0 4 = 2#4 ∧ cmd.extractLsb' 4 3 = 2#3) ∨
    (p.valueOps = false ∧ 2#4 ≤ cmd.extractLsb' 0 4 ∧ cmd.extractLsb' 0 4 ≤ 13#4)

/-- Whether an operation is ADD, SUB, MUL or DIV: the operations that can use up a draw (R205). -/
def isArith : Op → Bool
  | .add | .sub | .mul | .div => true
  | .enc | .dec | .neg | .isnz | .eq | .ne | .lt | .le | .gt | .ge => false

/-- Whether an operation's result is a Boolean word (R74, R75). -/
def givesBool : Op → Bool
  | .isnz | .eq | .ne | .lt | .le | .gt | .ge => true
  | .enc | .dec | .neg | .add | .sub | .mul | .div => false

/-- Whether an operation's result is a code (R66, R74). -/
def givesCode : Op → Bool
  | .enc | .neg | .add | .sub | .mul | .div => true
  | .dec | .isnz | .eq | .ne | .lt | .le | .gt | .ge => false

/-- Whether an operation reads one operand only (R74). -/
def isUnary : Op → Bool
  | .enc | .dec | .neg | .isnz => true
  | .add | .sub | .mul | .div | .eq | .ne | .lt | .le | .gt | .ge => false

/-- A run has faulted when some response has `err = 1` (R287). -/
def faulted (s : State) : Bool := s.responses.any (·.err)

/-- A run is over when no request is in flight (R287). DESIGN CHOICE (log entry 23): a run whose requests were dropped by reset
counts as over, although they got no response (R280). -/
def runOver (s : State) : Bool := s.inflight.isEmpty

/-- A safe run is over and has not faulted (R287); requests dropped by reset do not count against it (log entry 23). -/
def safe (s : State) : Bool := runOver s && !faulted s

/-- THE INVARIANT: every response with `err = 1` has `r = 0` (R251). -/
def ErrorsCarryZero (s : State) : Prop := ∀ resp ∈ s.responses, resp.err = true → resp.r = 0#32

end Sys2Proof.Safety
end

