-- ==== Sys2Proof/Exact.lean ====
section
/-! DEFINITION. The exact rational reading of words, in which statements speak of values: float32 and float64 values, round half
to even and the shared encoder on exact numbers, and IEEE-754 rounding and operations as relations. No step uses this file. -/

namespace Sys2Proof.Exact

open Sys2Proof.Machine Sys2Proof.Safety

/-- A finite float32 pattern: neither infinity nor NaN (R60). -/
abbrev Finite32 (w : Word) : Prop := f32Exp w ≠ 255

/-- The exact value of a finite float32 pattern (R14). -/
def f32Rat (w : Word) : ℚ :=
  (if f32Sign w then -1 else 1) *
    (if f32Exp w = 0 then 2 ^ (-149 : ℤ) * (f32Frac w : ℚ)
     else 2 ^ ((f32Exp w : ℤ) - 127) * (1 + (f32Frac w : ℚ) / 2 ^ 23))

/-- The exact value of a float32 pattern that is no NaN, with the infinities at the ends of the order (R212). -/
def f32Ext (w : Word) : WithBot (WithTop ℚ) :=
  if f32Exp w = 255 then (if f32Sign w then ⊥ else ((⊤ : WithTop ℚ) : WithBot (WithTop ℚ)))
  else ((f32Rat w : WithTop ℚ) : WithBot (WithTop ℚ))

/-- The exact value of a finite float64 pattern. -/
def f64Rat (d : BitVec 64) : ℚ :=
  (if f64Sign d then -1 else 1) *
    (if f64Exp d = 0 then 2 ^ (-1074 : ℤ) * (f64Frac d : ℚ)
     else 2 ^ ((f64Exp d : ℤ) - 1023) * (1 + (f64Frac d : ℚ) / 2 ^ 52))

/-- `RHE` on an exact number, as R100 writes it. -/
def rheRat (x : ℚ) : ℤ :=
  let fl := ⌊x⌋
  let fr := x - fl
  if fr > 1 / 2 then fl + 1
  else if fr < 1 / 2 then fl
  else if fl % 2 = 0 then fl else fl + 1

/-- `EncStd` on exact numbers, step by step as R105 writes it. -/
def encStdRat (f : Format) (a : Word) : Word :=
  let E := (formatSpec f).expBits
  let M := (formatSpec f).mantBits
  let s : Word := BitVec.ofNat 32 (f32Sign a).toNat <<< (E + M)
  let ones : Word := BitVec.ofNat 32 (emaxf f) <<< M
  let infinity := s ||| ones
  let largest := s ||| ones ||| BitVec.ofNat 32 (mmax f)
  let ieee := (formatSpec f).policy = .ieeeLike
  if f32Exp a = 255 then
    if ieee then (if f32Frac a = 0 then infinity else s ||| ones ||| (1#32 <<< (M - 1)))
    else largest
  else if f32Exp a = 0 ∧ f32Frac a = 0 then s
  else
    let mag := |f32Rat a|
    let e : ℤ := if f32Exp a = 0 then -126 else (f32Exp a : ℤ) - 127
    if e < emin f then
      s ||| BitVec.ofInt 32 (min (max (rheRat (mag / 2 ^ stepExp f)) 0) (mmax f))
    else
      let mq := rheRat ((f32Frac a : ℚ) / 2 ^ (23 - M))
      let carried := mq = 2 ^ M
      let e' := if carried then e + 1 else e
      if e' > emax f then (if ieee then infinity else largest)
      else s ||| (BitVec.ofInt 32 (e' + (formatSpec f).bias) <<< M) ||| BitVec.ofInt 32 (if carried then 0 else mq)

/-- IEEE-754 binary32 rounding of the exact number `v` to nearest, ties to even, with gradual underflow and overflow to infinity
(R204): `z` has the sign `neg`; from `2^128 - 2^103` on it is an infinity, below that it is a finite pattern no farther
from `v` than any other, with bit 0 clear when another value is as near. -/
def RoundsTo (v : ℚ) (neg : Bool) (z : Word) : Prop :=
  f32Sign z = neg ∧
  if 2 ^ 128 - 2 ^ 103 ≤ |v| then isInf32 z = true
  else Finite32 z ∧ ∀ w, Finite32 w →
    |v - f32Rat z| ≤ |v - f32Rat w| ∧
    (|v - f32Rat z| = |v - f32Rat w| → f32Rat w ≠ f32Rat z → z.getLsbD 0 = false)

/-- The sign of an exact nonzero number, and `zeroSign` for zero. -/
def signOr (zeroSign : Bool) (v : ℚ) : Bool := if v = 0 then zeroSign else decide (v < 0)

/-- `x + y` in binary32 (R204); `none` is a NaN result. -/
def IsF32Sum (x y : Word) : Option Word → Prop
  | none => isNaN32 x = true ∨ isNaN32 y = true ∨ (isInf32 x = true ∧ isInf32 y = true ∧ f32Sign x ≠ f32Sign y)
  | some z =>
    isNaN32 x = false ∧ isNaN32 y = false ∧
    (isInf32 x = true → isInf32 y = true → f32Sign x = f32Sign y) ∧
    (isInf32 x = true → z = x) ∧ (isInf32 y = true → z = y) ∧
    (Finite32 x → Finite32 y →
      RoundsTo (f32Rat x + f32Rat y) (signOr (f32Sign x && f32Sign y) (f32Rat x + f32Rat y)) z)

/-- `x - y` in binary32 (R204); `none` is a NaN result. -/
def IsF32Difference (x y : Word) : Option Word → Prop
  | none => isNaN32 x = true ∨ isNaN32 y = true ∨ (isInf32 x = true ∧ isInf32 y = true ∧ f32Sign x = f32Sign y)
  | some z =>
    isNaN32 x = false ∧ isNaN32 y = false ∧
    (isInf32 x = true → isInf32 y = true → f32Sign x ≠ f32Sign y) ∧
    (isInf32 x = true → z = x) ∧ (isInf32 y = true → z = y ^^^ 0x80000000#32) ∧
    (Finite32 x → Finite32 y →
      RoundsTo (f32Rat x - f32Rat y) (signOr (f32Sign x && !f32Sign y) (f32Rat x - f32Rat y)) z)

/-- A signed zero. -/
abbrev Zero32 (w : Word) : Prop := Finite32 w ∧ f32Rat w = 0

/-- `x * y` in binary32 (R204); `none` is a NaN result. The sign is the exclusive or of the signs, also for zero and infinity. -/
def IsF32Product (x y : Word) : Option Word → Prop
  | none =>
    isNaN32 x = true ∨ isNaN32 y = true ∨ (isInf32 x = true ∧ Zero32 y) ∨ (Zero32 x ∧ isInf32 y = true)
  | some z =>
    isNaN32 x = false ∧ isNaN32 y = false ∧ ¬ (isInf32 x = true ∧ Zero32 y) ∧ ¬ (Zero32 x ∧ isInf32 y = true) ∧
    (isInf32 x = true ∨ isInf32 y = true → z = f32Inf (f32Sign x != f32Sign y)) ∧
    (Finite32 x → Finite32 y → RoundsTo (f32Rat x * f32Rat y) (f32Sign x != f32Sign y) z)

/-- `x / y` in binary32 (R204); `none` is a NaN result. The sign is the exclusive or of the signs, also for zero and infinity. -/
def IsF32Quotient (x y : Word) : Option Word → Prop
  | none =>
    isNaN32 x = true ∨ isNaN32 y = true ∨ (isInf32 x = true ∧ isInf32 y = true) ∨ (Zero32 x ∧ Zero32 y)
  | some z =>
    isNaN32 x = false ∧ isNaN32 y = false ∧ ¬ (isInf32 x = true ∧ isInf32 y = true) ∧ ¬ (Zero32 x ∧ Zero32 y) ∧
    (isInf32 x = true ∨ (Finite32 x ∧ Zero32 y) → z = f32Inf (f32Sign x != f32Sign y)) ∧
    (Finite32 x → isInf32 y = true → z = f32SignBit (f32Sign x != f32Sign y)) ∧
    (Finite32 x → Finite32 y → f32Rat y ≠ 0 → RoundsTo (f32Rat x / f32Rat y) (f32Sign x != f32Sign y) z)

/-- The codes that decode to a NaN, format by format (R63). -/
def nanCode (f : Format) (c : Word) : Bool :=
  match f with
  | .e5m2   => c = 0x7D#32 ∨ c = 0x7E#32 ∨ c = 0x7F#32 ∨ c = 0xFD#32 ∨ c = 0xFE#32 ∨ c = 0xFF#32
  | .e4m3fn => c = 0x7F#32 ∨ c = 0xFF#32
  | .e8m0   => c = 0xFF#32
  | .bf16   => c.extractLsb' 7 8 = 0xFF#8 ∧ c.extractLsb' 0 7 ≠ 0#7
  | .e2m3fn => false
  | .e3m2fn => false
  | .e2m1fn => false

/-- The codes that decode to an infinity, format by format (R63). -/
def infCode (f : Format) (c : Word) : Bool :=
  match f with
  | .e5m2   => c = 0x7C#32 ∨ c = 0xFC#32
  | .bf16   => c = 0x7F80#32 ∨ c = 0xFF80#32
  | .e4m3fn => false
  | .e8m0   => false
  | .e2m3fn => false
  | .e3m2fn => false
  | .e2m1fn => false

/-- The exact value of a code by the subnormal and normal formulas of R162, sign included. -/
def codeRat (f : Format) (c : Word) : ℚ :=
  let M := (formatSpec f).mantBits
  let bias : ℤ := (formatSpec f).bias
  (if codeSign f c then -1 else 1) *
    (if codeExp f c = 0 then (codeMant f c : ℚ) * 2 ^ (1 - bias - (M : ℤ))
     else (1 + (codeMant f c : ℚ) / 2 ^ M) * 2 ^ ((codeExp f c : ℤ) - bias))

/-- What DEC of a format other than float8_e8m0 and bfloat16 gives (R162): the specials of the policy, else a finite pattern of the
code's sign and value. -/
def IsDecStd (f : Format) (c r : Word) : Prop :=
  let s := codeSign f c
  if (formatSpec f).policy = .ieeeLike ∧ codeExp f c = emaxf f then
    r = if codeMant f c = 0 then f32SignBit s ||| 0x7F800000#32 else f32SignBit s ||| 0x7FC00000#32
  else if (formatSpec f).policy = .finiteWithNanSentinel ∧ codeExp f c = emaxf f ∧ codeMant f c = mmax f then
    r = f32SignBit s ||| 0x7FC00000#32
  else Finite32 r ∧ f32Sign r = s ∧ f32Rat r = codeRat f c

/-- The formats of the shared algorithms (R105, R162). -/
def isStd : Format → Bool
  | .e5m2 | .e4m3fn | .e2m3fn | .e3m2fn | .e2m1fn => true
  | .e8m0 | .bf16 => false

/-- The largest finite magnitude of each format of the shared algorithms (the table of R23); 0 for the two others, which no
statement asks about. -/
def maxFinite : Format → ℚ
  | .e5m2   => 57344
  | .e4m3fn => 448
  | .e2m3fn => 15 / 2
  | .e3m2fn => 28
  | .e2m1fn => 6
  | .e8m0   => 0
  | .bf16   => 0

/-- The magnitudes the clamp of R109 sends to the largest subnormal code: `(2^M - 1/2) * STEP <= mag < 2^emin`. -/
def InClampRange (f : Format) (mag : ℚ) : Prop :=
  (2 ^ (formatSpec f).mantBits - 1 / 2) * 2 ^ stepExp f ≤ mag ∧ mag < 2 ^ emin f

/-! ## Shapes of results -/

/-- An ENC command of a format of the shared algorithm answers with the code of R105 computed on exact numbers. -/
def EncodesAsR105 (f : Format) (i : Word → Instr) : Prop :=
  ∀ a s, exec (i a) s = .next (answered (encStdRat f a) s)

/-- A DEC command of such a format answers with a pattern as R162 says. -/
def DecodesAsR162 (f : Format) (i : Word → Instr) : Prop :=
  ∀ a s, ∃ r, IsDecStd f (a &&& wmask f) r ∧ exec (i a) s = .next (answered r s)

/-- A NEG command answers with the masked code, its sign bit flipped; `mask` and `sign` are the format's WMASK and SMASK. -/
def NegatesWith (mask sign : Word) (i : Word → Instr) : Prop :=
  ∀ a s, exec (i a) s = .next (answered ((a &&& mask) ^^^ sign) s)

/-- An ISNZ command of a format with a sign bit tests the code bits other than the sign; `mask` is `WMASK & ~SMASK`. -/
def TestsNonzeroWith (mask : Word) (i : Word → Instr) : Prop :=
  ∀ a s, exec (i a) s = .next (answered (if a &&& mask ≠ 0#32 then 1#32 else 0#32) s)

/-- An arithmetic command decodes both operands, takes a binary32 result that meets the relation `spec` of its operation, and
answers with its encoding, or with that of a draw when the result is a NaN. -/
def ComputesBy (spec : Word → Word → Option Word → Prop) (f : Format) (i : Word → Word → Instr) : Prop :=
  ∀ a b s, ∃ res, spec (decOperand f a) (decOperand f b) res ∧ exec (i a b) s = .next (arithAnswered f res s)

/-- EQ answers 1 when the decoded patterns are the same bits or both are NaN, else 0 (R210). -/
def EqualsByBitsOrNan (f : Format) (i : Word → Word → Instr) : Prop :=
  ∀ a b s, ∃ r, exec (i a b) s = .next (answered r s) ∧
    (decOperand f a = decOperand f b ∨ (isNaN32 (decOperand f a) = true ∧ isNaN32 (decOperand f b) = true) → r = 1#32) ∧
    (¬ (decOperand f a = decOperand f b ∨ (isNaN32 (decOperand f a) = true ∧ isNaN32 (decOperand f b) = true)) → r = 0#32)

/-- Equality on codes (R216): the same code that is no NaN code, or two NaN codes. -/
def equalCodes (f : Format) (a b : Word) : Bool :=
  (a &&& wmask f = b &&& wmask f ∧ nanCode f (a &&& wmask f) = false) ∨
    (nanCode f (a &&& wmask f) = true ∧ nanCode f (b &&& wmask f) = true)

/-- EQ answers the equality of codes and NE its negation (R211, R216). -/
def EqualOnCodes (f : Format) (eq ne : Word → Word → Instr) : Prop :=
  ∀ a b s, exec (eq a b) s = .next (answered (if equalCodes f a b then 1#32 else 0#32) s) ∧
    exec (ne a b) s = .next (answered (if equalCodes f a b then 0#32 else 1#32) s)

/-- An ordered comparison answers 1 exactly when neither operand is a NaN and the exact values stand in the relation (R212). -/
def ComparesBy (rel : WithBot (WithTop ℚ) → WithBot (WithTop ℚ) → Prop) (f : Format)
    (i : Word → Word → Instr) : Prop :=
  ∀ a b s, ∃ r, exec (i a b) s = .next (answered r s) ∧ (r = 0#32 ∨ r = 1#32) ∧
    (r = 1#32 ↔ isNaN32 (decOperand f a) = false ∧ isNaN32 (decOperand f b) = false ∧
      rel (f32Ext (decOperand f a)) (f32Ext (decOperand f b)))

end Sys2Proof.Exact
end

