-- ==== Sys2Proof/Certificates/Slice0/Obligations.lean ====
section
/-! DEFINITION. The statements about the model, for the provers. Each formalises rules of spec/; OBLIGATIONS.json lists them.
The shapes that several commands share, by which a statement names its commands one by one, stand in Sys2Proof/Exact.lean. -/

open Sys2Proof Sys2Proof.Machine Sys2Proof.Safety Sys2Proof.Exact

/-! ## Reset, requests and responses -/

/-- R280: after reset nothing is in flight and no response is pending; requests in flight when reset is asserted get no response.
The spec's own decision D17; that delivered responses stay with the host is the model's reading (log entry 2), and that a step with
nothing in flight changes nothing, the last clause, is the model's choice (log entry 5). -/
def Obligations.ResetLeavesNothingInFlight : Prop :=
  State.reset.inflight = [] ∧ State.reset.responses = [] ∧
  ∀ s : State, (assertReset s).inflight = [] ∧ (assertReset s).responses = s.responses ∧
    step (assertReset s) = .next (assertReset s)

/-- R282: after reset the block serves the first request it receives (decision D18); an illegal one gets the IllegalCommand
response of R251 (decision D4; as a next state by log entry 4). -/
def Obligations.FirstRequestAfterResetIsServed : Prop :=
  ∀ q : Request,
    (∀ i, decode blockParams q = .ok i → step (issue q State.reset) = exec i State.reset) ∧
    (∀ e, decode blockParams q = .error e → step (issue q State.reset) = .next (answeredIllegal State.reset))

/-- A step decodes the oldest request in flight and runs the command on the state without that request; with nothing in flight
nothing changes (log entry 5). -/
def Obligations.StepRunsTheDecodedCommand : Prop :=
  (∀ (s : State) (q : Request) (rest : List Request) (i : Instr),
    s.inflight = q :: rest → decode blockParams q = .ok i → step s = exec i { s with inflight := rest }) ∧
  (∀ s : State, s.inflight = [] → step s = .next s)

/-- R251, R252 (decision D4; as a next state by log entry 4): an illegal command word is answered with `r = 0`, `err = 1`,
whatever the operands are, and nothing else changes, so that the next request is the next to be served. -/
def Obligations.IllegalCommandIsAnsweredWithError : Prop :=
  ∀ (s : State) (cmd a b : Word) (rest : List Request), illegalWord blockParams cmd = true →
    s.inflight = ⟨cmd, a, b⟩ :: rest → step s = .next (answeredIllegal { s with inflight := rest })

/-- R76: a word is decoded exactly when it is not illegal, for either value of VALUE_OPS; of the words below 128, 97 are legal
when VALUE_OPS = 1 and 14 when VALUE_OPS = 0 (decisions D4, D6). -/
def Obligations.LegalWordsAreExactlyTheTable : Prop :=
  (∀ (p : Params) (q : Request), (∃ i, decode p q = .ok i) ↔ illegalWord p q.cmd = false) ∧
  (∀ (p : Params) (q : Request) (i : Instr), decode p q = .ok i → q.cmd = commandWord i.op i.fmt ∧ wellFormed p i = true) ∧
  ((List.range 128).filter fun w => !illegalWord blockParams (BitVec.ofNat 32 w)).length = 97 ∧
  ((List.range 128).filter fun w => !illegalWord { blockParams with valueOps := false } (BitVec.ofNat 32 w)).length = 14

/-- Decoding an encoded well-formed command gives it back, with every operand at every value, for every parameter setting (the
command word is the spec's own, decisions D2, D3). -/
def Obligations.DecodeOfEncode : Prop :=
  ∀ (p : Params) (i : Instr), wellFormed p i = true → decode p (encode i) = .ok i

/-- A decoded request is the encoding of its command, but for the unused operand word of a unary command (decisions D2, D3).
That the encoder leaves `b = 0` there is the model's own choice (log entry 20). -/
def Obligations.EncodeOfDecode : Prop :=
  ∀ (p : Params) (q : Request) (i : Instr), decode p q = .ok i →
    encode i = { q with b := if isUnary i.op then 0#32 else q.b }

/-- Words written out from the encodings of the rules R120, R123, R175, R201, R202, R206 to R215, one per operation, and five
illegal words with the reason each is rejected for (decisions D2, D3, D4, D6, D7). -/
def Obligations.SampleCommandWordsDecode : Prop :=
  ∀ a b : Word,
    decode blockParams ⟨0x00000000#32, a, b⟩ = .ok (.encE5m2 a) ∧
    decode blockParams ⟨0x00000031#32, a, b⟩ = .ok (.decBf16 a) ∧
    decode blockParams ⟨0x00000012#32, a, b⟩ = .ok (.negE4m3fn a) ∧
    decode blockParams ⟨0x00000023#32, a, b⟩ = .ok (.isnzE8m0 a) ∧
    decode blockParams ⟨0x00000014#32, a, b⟩ = .ok (.addE4m3fn a b) ∧
    decode blockParams ⟨0x00000045#32, a, b⟩ = .ok (.subE2m3fn a b) ∧
    decode blockParams ⟨0x00000056#32, a, b⟩ = .ok (.mulE3m2fn a b) ∧
    decode blockParams ⟨0x00000067#32, a, b⟩ = .ok (.divE2m1fn a b) ∧
    decode blockParams ⟨0x00000018#32, a, b⟩ = .ok (.eqE4m3fn a b) ∧
    decode blockParams ⟨0x00000009#32, a, b⟩ = .ok (.neE5m2 a b) ∧
    decode blockParams ⟨0x0000003A#32, a, b⟩ = .ok (.ltBf16 a b) ∧
    decode blockParams ⟨0x0000002B#32, a, b⟩ = .ok (.leE8m0 a b) ∧
    decode blockParams ⟨0x0000005C#32, a, b⟩ = .ok (.gtE3m2fn a b) ∧
    decode blockParams ⟨0x0000006D#32, a, b⟩ = .ok (.geE2m1fn a b) ∧
    decode blockParams ⟨0x00000022#32, a, b⟩ = .error .negE8m0 ∧
    decode blockParams ⟨0x0000000E#32, a, b⟩ = .error .reservedOp ∧
    decode blockParams ⟨0x00000070#32, a, b⟩ = .error .reservedFmt ∧
    decode blockParams ⟨0x00000181#32, a, b⟩ = .error .reservedBits ∧
    decode { blockParams with valueOps := false } ⟨0x00000014#32, a, b⟩ = .error .valueOpsDisabled

/-- R74: the response to a unary command does not depend on `b` (decision D2). -/
def Obligations.UnusedOperandIsIgnored : Prop :=
  ∀ (s : State) (cmd a b b' : Word) (rest : List Request) (i : Instr),
    decode blockParams ⟨cmd, a, b⟩ = .ok i → isUnary i.op = true →
    step { s with inflight := ⟨cmd, a, b⟩ :: rest } = step { s with inflight := ⟨cmd, a, b'⟩ :: rest }

/-- R66: a command that reads codes does not depend on the bits of its operands above the format's width (decision D5). -/
def Obligations.UnusedHighBitsOfCodesAreIgnored : Prop :=
  ∀ (s : State) (q q' : Request) (rest : List Request) (i : Instr),
    decode blockParams q = .ok i → i.op ≠ .enc → q'.cmd = q.cmd →
    q'.a &&& wmask i.fmt = q.a &&& wmask i.fmt → q'.b &&& wmask i.fmt = q.b &&& wmask i.fmt →
    step { s with inflight := q :: rest } = step { s with inflight := q' :: rest }

/-- R66: a command that emits a code leaves the bits of `r` above the format's width zero (decision D5). -/
def Obligations.CodeResultsAreZeroExtended : Prop :=
  ∀ (i : Instr) (s : State), givesCode i.op = true →
    ∃ r t, exec i s = .next t ∧ t.responses = s.responses ++ [⟨r, false⟩] ∧ r &&& ~~~ wmask i.fmt = 0#32

/-- R75: a command that returns a Boolean writes 0 or 1 (decision D2). -/
def Obligations.BooleanResultsAreZeroOrOne : Prop :=
  ∀ (i : Instr) (s : State), givesBool i.op = true →
    ∃ r, exec i s = .next (answered r s) ∧ (r = 0#32 ∨ r = 1#32)

/-- R250: no operand value of a legal command causes an error, a trap, a stuck state or an undefined result: every command, on
every operand and in every state, goes on with one response whose error bit is 0. -/
def Obligations.NoOperandValueFaults : Prop :=
  ∀ (i : Instr) (s : State), ∃ r t, exec i s = .next t ∧ t.responses = s.responses ++ [⟨r, false⟩]

/-- The frame of every command: the requests in flight and the earlier responses are unchanged, one response with `err = 0` is
added, and the draw counter (the model's own field, log entry 3) changes only by one step of ADD, SUB, MUL or DIV. -/
def Obligations.CommandsChangeOnlyResponsesAndDraws : Prop :=
  ∀ (i : Instr) (s t : State), exec i s = .next t →
    t.inflight = s.inflight ∧ (∃ r, t.responses = s.responses ++ [⟨r, false⟩]) ∧
    (t.draws = s.draws ∨ (isArith i.op = true ∧ t.draws = s.draws + 1))

/-- R20: the response is a function of the request alone, at any time and in any order, except for the draw ARITH_NAN; and only
ADD, SUB, MUL and DIV read the draw. -/
def Obligations.ResponseIsAFunctionOfTheRequest : Prop :=
  ∀ q : Request, ∃ codec : Word → Response,
    (∀ (s : State) (rest : List Request), s.inflight = q :: rest →
      ∃ t, step s = .next t ∧ t.inflight = rest ∧ t.responses = s.responses ++ [codec (arithNan s)]) ∧
    (∀ i, decode blockParams q = .ok i → isArith i.op = false → ∀ z z', codec z = codec z')

/-- R284: stepping until the block is idle answers every request in flight, in the order received, one response per request, and
each response is one the request gets when it is alone in flight (decision D16). -/
def Obligations.RunAnswersEveryRequestInOrder : Prop :=
  ∀ s : State, ∃ (t : State) (answers : List Response),
    core.run s.inflight.length s = .next t ∧ t.inflight = [] ∧ t.responses = s.responses ++ answers ∧
    List.Forall₂ (fun q resp => ∃ d d', step ⟨[q], [], d⟩ = .next ⟨[], [resp], d'⟩) s.inflight answers

/-- The invariant of R251 that every step keeps: a response with `err = 1` has `r = 0` (decision D4). -/
def Obligations.StepKeepsErrorsCarryZero : Prop :=
  ∀ s t : State, ErrorsCarryZero s → step s = .next t → ErrorsCarryZero t

/-- The invariant holds right after reset, where no response has been given. -/
def Obligations.ErrorsCarryZeroAtReset : Prop := ErrorsCarryZero State.reset

/-- R287: a run that answers every request in flight has faulted exactly when it had faulted before or some of the requests is
illegal (decisions D4, D16). -/
def Obligations.RunFaultsExactlyOnIllegalCommands : Prop :=
  ∀ s t : State, core.run s.inflight.length s = .next t →
    runOver t = true ∧
    (faulted t = true ↔ faulted s = true ∨ ∃ q ∈ s.inflight, illegalWord blockParams q.cmd = true)

/-! ## The format table -/

/-- R21, R24: the rows of the table, and the width invariant in every row. The select numbers 0 to 6 are the spec's own
numbering (decision D3). -/
def Obligations.FormatTableAndWidthInvariant : Prop :=
  formatSpec .e5m2 = ⟨8, true, 5, 2, 15, .ieeeLike, false⟩ ∧
  formatSpec .e4m3fn = ⟨8, true, 4, 3, 7, .finiteWithNanSentinel, false⟩ ∧
  formatSpec .e8m0 = ⟨8, false, 8, 0, 127, .powerOfTwoScale, false⟩ ∧
  formatSpec .bf16 = ⟨16, true, 8, 7, 127, .ieeeLike, true⟩ ∧
  formatSpec .e2m3fn = ⟨6, true, 2, 3, 1, .finiteSaturating, false⟩ ∧
  formatSpec .e3m2fn = ⟨6, true, 3, 2, 3, .finiteSaturating, false⟩ ∧
  formatSpec .e2m1fn = ⟨4, true, 2, 1, 1, .finiteSaturating, false⟩ ∧
  (∀ f, fmtOfField (fmtCode f) = some f) ∧
  [fmtCode .e5m2, fmtCode .e4m3fn, fmtCode .e8m0, fmtCode .bf16, fmtCode .e2m3fn, fmtCode .e3m2fn, fmtCode .e2m1fn] =
    [0, 1, 2, 3, 4, 5, 6] ∧
  ∀ f, (formatSpec f).hasSign.toNat + (formatSpec f).expBits + (formatSpec f).mantBits = (formatSpec f).totalBits

/-- R23: the derived constants of each format, as the rule's table writes them (emax by decision D10). -/
def Obligations.DerivedConstants : Prop :=
  [wmask .e5m2, wmask .e4m3fn, wmask .e8m0, wmask .bf16, wmask .e2m3fn, wmask .e3m2fn, wmask .e2m1fn] =
    [0xFF#32, 0xFF#32, 0xFF#32, 0xFFFF#32, 0x3F#32, 0x3F#32, 0xF#32] ∧
  [smask .e5m2, smask .e4m3fn, smask .e8m0, smask .bf16, smask .e2m3fn, smask .e3m2fn, smask .e2m1fn] =
    [0x80#32, 0x80#32, 0#32, 0x8000#32, 0x20#32, 0x20#32, 0x8#32] ∧
  [emaxf .e5m2, emaxf .e4m3fn, emaxf .e8m0, emaxf .bf16, emaxf .e2m3fn, emaxf .e3m2fn, emaxf .e2m1fn] =
    [31, 15, 255, 255, 3, 7, 3] ∧
  [mmax .e5m2, mmax .e4m3fn, mmax .e8m0, mmax .bf16, mmax .e2m3fn, mmax .e3m2fn, mmax .e2m1fn] = [3, 7, 0, 127, 7, 3, 1] ∧
  [emin .e5m2, emin .e4m3fn, emin .bf16, emin .e2m3fn, emin .e3m2fn, emin .e2m1fn] = [-14, -6, -126, 0, -2, 0] ∧
  [emax .e5m2, emax .e4m3fn, emax .bf16, emax .e2m3fn, emax .e3m2fn, emax .e2m1fn] = [15, 8, 127, 2, 4, 2] ∧
  [stepExp .e5m2, stepExp .e4m3fn, stepExp .bf16, stepExp .e2m3fn, stepExp .e3m2fn, stepExp .e2m1fn] =
    [-16, -9, -133, -3, -4, -1]

/-! ## Encoding -/

/-- R100: the integer rounder is round half to even of the exact quotient, for every integer numerator; and its result is a nearest
integer, the even one at a tie. -/
def Obligations.RheIsExactRoundHalfToEven : Prop :=
  ∀ (num : ℤ) (den : ℕ), 0 < den →
    rhe num den = rheRat ((num : ℚ) / den) ∧
    |(num : ℚ) / den - rhe num den| ≤ 1 / 2 ∧
    (|(num : ℚ) / den - rhe num den| = 1 / 2 → rhe num den % 2 = 0)

/-- R105: the ENC commands of the five formats of the shared algorithm, on every float32 operand, give the code that the rule's
algorithm on exact numbers gives (decisions D9 for the quiet NaN, D10 for emax; the
clamp of the subnormal range by conflict C2, log entry 8). -/
def Obligations.EncStdIsTheExactAlgorithm : Prop :=
  EncodesAsR105 .e5m2 .encE5m2 ∧
  EncodesAsR105 .e4m3fn .encE4m3fn ∧
  EncodesAsR105 .e2m3fn .encE2m3fn ∧
  EncodesAsR105 .e3m2fn .encE3m2fn ∧
  EncodesAsR105 .e2m1fn .encE2m1fn

/-- R116 to R118: ENC.e8m0. NaN, negative values and -Inf give 0xFF, zeros 0x00, +Inf 0xFE; a positive finite value
`v = m * 2^e` with `1/2 <= m < 1` gives the exponent rounded at the exact threshold `sqrt 2 / 2`, clamped (decisions D11, D12). -/
def Obligations.EncE8m0RoundsAtSqrtTwo : Prop :=
  ∀ (a : Word) (s : State),
    (isNaN32 a = true → exec (.encE8m0 a) s = .next (answered 0xFF#32 s)) ∧
    (isInf32 a = true → exec (.encE8m0 a) s = .next (answered (if f32Sign a then 0xFF#32 else 0xFE#32) s)) ∧
    (Finite32 a → f32Rat a < 0 → exec (.encE8m0 a) s = .next (answered 0xFF#32 s)) ∧
    (Finite32 a → f32Rat a = 0 → exec (.encE8m0 a) s = .next (answered 0x00#32 s)) ∧
    (∀ (m : ℚ) (e : ℤ), Finite32 a → f32Rat a = m * 2 ^ e → 1 / 2 ≤ m → m < 1 →
      ∃ r, exec (.encE8m0 a) s = .next (answered r s) ∧
        ((m : ℝ) < Real.sqrt 2 / 2 → (r.toNat : ℤ) = min (max (e - 1 + 127) 0) 254) ∧
        (Real.sqrt 2 / 2 ≤ (m : ℝ) → (r.toNat : ℤ) = min (max (e + 127) 0) 254))

/-- R118: the bit-level form of ENC.e8m0 on positive finite operands (decision D12). -/
def Obligations.EncE8m0BitForm : Prop :=
  ∀ (a : Word) (s : State), f32Sign a = false →
    (1 ≤ f32Exp a → f32Exp a ≤ 254 →
      exec (.encE8m0 a) s =
        .next (answered (BitVec.ofNat 32 (min (f32Exp a + if 0x3504F4 ≤ f32Frac a then 1 else 0) 254)) s)) ∧
    (f32Exp a = 0 → f32Frac a ≠ 0 →
      exec (.encE8m0 a) s = .next (answered (if 0x5A827A ≤ f32Frac a then 1#32 else 0#32) s))

/-- R119: ENC.bf16 takes bits [31:16] of the float32 pattern, for every operand. -/
def Obligations.EncBf16TakesTheTopHalf : Prop :=
  ∀ (a : Word) (s : State), exec (.encBf16 a) s = .next (answered (a >>> 16) s)

/-- R106: the codes of infinite and NaN operands, with the operand's sign; no payload bit reaches the code (decision D9). -/
def Obligations.EncInfinitiesAndNans : Prop :=
  ∀ a : Word, f32Exp a = 255 →
    enc blockParams .e5m2 a = (if f32Sign a then 0x80#32 else 0#32) ||| (if f32Frac a = 0 then 0x7C#32 else 0x7E#32) ∧
    enc blockParams .e4m3fn a = (if f32Sign a then 0xFF#32 else 0x7F#32) ∧
    enc blockParams .e2m3fn a = (if f32Sign a then 0x3F#32 else 0x1F#32) ∧
    enc blockParams .e3m2fn a = (if f32Sign a then 0x3F#32 else 0x1F#32) ∧
    enc blockParams .e2m1fn a = (if f32Sign a then 0xF#32 else 0x7#32)

/-- R107: +0.0 encodes to code 0 and -0.0 to code SMASK, in every format of the three policies. -/
def Obligations.EncSignedZeros : Prop :=
  ∀ f, isStd f = true → enc blockParams f 0x00000000#32 = 0#32 ∧ enc blockParams f 0x80000000#32 = smask f

/-- R115: flipping the sign of the operand flips the sign bit of the code and nothing else. -/
def Obligations.EncSignSymmetry : Prop :=
  ∀ (f : Format) (a : Word), isStd f = true →
    enc blockParams f (a ^^^ 0x80000000#32) = enc blockParams f a ^^^ smask f

/-- R109 (conflict C2, log entry 8): a magnitude from `(2^M - 1/2) * STEP` up to `2^emin` is given the largest subnormal code
with the operand's sign, and the ranges are those of the rule's table. -/
def Obligations.EncClampRanges : Prop :=
  (∀ (f : Format) (a : Word), isStd f = true → Finite32 a → InClampRange f |f32Rat a| →
    enc blockParams f a = (if f32Sign a then smask f else 0#32) ||| BitVec.ofNat 32 (mmax f)) ∧
  (∀ mag : ℚ,
    (InClampRange .e5m2 mag ↔ 7 * 2 ^ (-17 : ℤ) ≤ mag ∧ mag < 2 ^ (-14 : ℤ)) ∧
    (InClampRange .e4m3fn mag ↔ 15 * 2 ^ (-10 : ℤ) ≤ mag ∧ mag < 2 ^ (-6 : ℤ)) ∧
    (InClampRange .e2m3fn mag ↔ 15 / 16 ≤ mag ∧ mag < 1) ∧
    (InClampRange .e3m2fn mag ↔ 7 / 32 ≤ mag ∧ mag < 1 / 4) ∧
    (InClampRange .e2m1fn mag ↔ 3 / 4 ≤ mag ∧ mag < 1))

/-- R111, R114: overflow. ±Inf for float8_e5m2 from 61440 on; the NaN sentinel for float8_e4m3fn above 464, and 448 at 464; the
largest finite code for the FiniteSaturating formats from their largest finite value on (decision D10 for emax). -/
def Obligations.EncOverflow : Prop :=
  ∀ a : Word, Finite32 a →
    (61440 ≤ |f32Rat a| → enc blockParams .e5m2 a = if f32Sign a then 0xFC#32 else 0x7C#32) ∧
    (464 < |f32Rat a| → enc blockParams .e4m3fn a = if f32Sign a then 0xFF#32 else 0x7F#32) ∧
    (|f32Rat a| = 464 → enc blockParams .e4m3fn a = if f32Sign a then 0xFE#32 else 0x7E#32) ∧
    (15 / 2 ≤ |f32Rat a| → enc blockParams .e2m3fn a = if f32Sign a then 0x3F#32 else 0x1F#32) ∧
    (28 ≤ |f32Rat a| → enc blockParams .e3m2fn a = if f32Sign a then 0x3F#32 else 0x1F#32) ∧
    (6 ≤ |f32Rat a| → enc blockParams .e2m1fn a = if f32Sign a then 0xF#32 else 0x7#32)

/-- In the five formats of the shared algorithm (float8_e8m0 and bfloat16 are not among them), outside the clamp range of R109
(conflict C2, log entry 8) and up to the largest finite magnitude, the code given decodes to a finite value no farther from the
operand than that of any other code, and is the even code when another value is as near (R100, R109, R110). -/
def Obligations.EncIsNearestOutsideTheClamp : Prop :=
  ∀ (f : Format) (a : Word), isStd f = true → Finite32 a → |f32Rat a| ≤ maxFinite f → ¬ InClampRange f |f32Rat a| →
    Finite32 (decOperand f (enc blockParams f a)) ∧
    ∀ c : Word, Finite32 (decOperand f c) →
      |f32Rat a - f32Rat (decOperand f (enc blockParams f a))| ≤ |f32Rat a - f32Rat (decOperand f c)| ∧
      (|f32Rat a - f32Rat (decOperand f (enc blockParams f a))| = |f32Rat a - f32Rat (decOperand f c)| →
        f32Rat (decOperand f c) ≠ f32Rat (decOperand f (enc blockParams f a)) →
        (enc blockParams f a).getLsbD 0 = false)

/-! ## Decoding codes -/

/-- R162: DEC of the five formats of the shared expander gives the specials of the policy (decisions D8, D9), else the finite
pattern of the code's sign and exact value. -/
def Obligations.DecStdGivesTheExactValue : Prop :=
  DecodesAsR162 .e5m2 .decE5m2 ∧
  DecodesAsR162 .e4m3fn .decE4m3fn ∧
  DecodesAsR162 .e2m3fn .decE2m3fn ∧
  DecodesAsR162 .e3m2fn .decE3m2fn ∧
  DecodesAsR162 .e2m1fn .decE2m1fn

/-- A finite float32 pattern is determined by its sign and its exact value, so that R162 fixes DEC's result. -/
def Obligations.SignAndValueDetermineThePattern : Prop :=
  ∀ w w' : Word, Finite32 w → Finite32 w' → f32Sign w = f32Sign w' → f32Rat w = f32Rat w' → w = w'

/-- R167: DEC.e8m0 gives NaN for 0xFF, else the positive power of two `2^(c - 127)`, the float32 subnormal 0x0040_0000 for code
0x00 and `c << 23` for the others (NaN pattern by decision D8). -/
def Obligations.DecE8m0GivesPowersOfTwo : Prop :=
  ∀ (a : Word) (s : State), ∃ r, exec (.decE8m0 a) s = .next (answered r s) ∧
    (a &&& 0xFF#32 = 0xFF#32 → r = 0x7FC00000#32) ∧
    (a &&& 0xFF#32 = 0x00#32 → r = 0x00400000#32) ∧
    (a &&& 0xFF#32 ≠ 0xFF#32 → a &&& 0xFF#32 ≠ 0x00#32 → r = (a &&& 0xFF#32) <<< 23) ∧
    (a &&& 0xFF#32 ≠ 0xFF#32 → Finite32 r ∧ f32Rat r = 2 ^ (((a &&& 0xFF#32).toNat : ℤ) - 127))

/-- R168: DEC.bf16 puts the 16-bit code in the high half of the pattern and zeros in the low half. -/
def Obligations.DecBf16FillsTheHighHalf : Prop :=
  ∀ (a : Word) (s : State), exec (.decBf16 a) s = .next (answered ((a &&& 0xFFFF#32) <<< 16) s)

/-- R164: for float8_e4m3fn only 0x7F and 0xFF decode to a NaN and no code to an infinity; every other code has the value of the
subnormal and normal formulas, so codes 0x78 to 0x7E are 256 to 448 in steps of 32, and 0xF8 to 0xFE their negatives. -/
def Obligations.FnDecodesOnlyTheSentinelToNan : Prop :=
  (∀ c : Word, isNaN32 (decOperand .e4m3fn c) = true ↔ c &&& 0xFF#32 = 0x7F#32 ∨ c &&& 0xFF#32 = 0xFF#32) ∧
  (∀ c : Word, isInf32 (decOperand .e4m3fn c) = false) ∧
  (∀ c : Word, c &&& 0xFF#32 ≠ 0x7F#32 → c &&& 0xFF#32 ≠ 0xFF#32 →
    f32Rat (decOperand .e4m3fn c) = codeRat .e4m3fn (c &&& 0xFF#32)) ∧
  (∀ k : ℕ, k ≤ 6 →
    f32Rat (decOperand .e4m3fn (BitVec.ofNat 32 (0x78 + k))) = 256 + 32 * k ∧
    f32Rat (decOperand .e4m3fn (BitVec.ofNat 32 (0xF8 + k))) = -(256 + 32 * k))

/-- R165: every code of a FiniteSaturating format is finite and decodes by the subnormal and normal formulas, none to a NaN or an
infinity, and the saturation codes decode to the largest finite magnitudes 7.5, 28 and 6. -/
def Obligations.SatDecodesNoSpecial : Prop :=
  (∀ c : Word,
    (Finite32 (decOperand .e2m3fn c) ∧ f32Rat (decOperand .e2m3fn c) = codeRat .e2m3fn (c &&& 0x3F#32)) ∧
    (Finite32 (decOperand .e3m2fn c) ∧ f32Rat (decOperand .e3m2fn c) = codeRat .e3m2fn (c &&& 0x3F#32)) ∧
    (Finite32 (decOperand .e2m1fn c) ∧ f32Rat (decOperand .e2m1fn c) = codeRat .e2m1fn (c &&& 0xF#32))) ∧
  f32Rat (decOperand .e2m3fn 0x1F#32) = 15 / 2 ∧ f32Rat (decOperand .e3m2fn 0x1F#32) = 28 ∧
  f32Rat (decOperand .e2m1fn 0x7#32) = 6 ∧
  f32Rat (decOperand .e2m3fn 0x3F#32) = -(15 / 2) ∧ f32Rat (decOperand .e3m2fn 0x3F#32) = -28 ∧
  f32Rat (decOperand .e2m1fn 0xF#32) = -6

/-- R169: encoding a decoded code gives the code back unless it decodes to a NaN; then it gives a code that decodes to a NaN: the
quiet one of the same sign for float8_e5m2, the code itself for the other formats. -/
def Obligations.CodecRoundTrip : Prop :=
  ∀ (f : Format) (c : Word),
    (isNaN32 (decOperand f c) = false → enc blockParams f (decOperand f c) = c &&& wmask f) ∧
    (isNaN32 (decOperand f c) = true →
      isNaN32 (decOperand f (enc blockParams f (decOperand f c))) = true ∧
      enc blockParams f (decOperand f c) =
        if f = .e5m2 then (if codeSign .e5m2 c then 0xFE#32 else 0x7E#32) else c &&& wmask f)

/-- R170: flipping the sign bit of a code flips bit 31 of the decoded pattern and nothing else. -/
def Obligations.DecSignSymmetry : Prop :=
  ∀ (f : Format) (c : Word), (formatSpec f).hasSign = true →
    decOperand f (c ^^^ smask f) = decOperand f c ^^^ 0x80000000#32

/-- R170: within one sign, a greater code never decodes to a smaller magnitude, NaN codes left out, in every format. -/
def Obligations.DecIsMonotone : Prop :=
  ∀ (f : Format) (c d : Word), codeSign f c = codeSign f d → c &&& wmask f ≤ d &&& wmask f →
    isNaN32 (decOperand f c) = false → isNaN32 (decOperand f d) = false →
    f32Ext (decOperand f c &&& 0x7FFFFFFF#32) ≤ f32Ext (decOperand f d &&& 0x7FFFFFFF#32)

/-- R170: the code with exponent field equal to the bias and mantissa 0 decodes to 1.0, in every format. -/
def Obligations.BiasCodeDecodesToOne : Prop :=
  ∀ f, decOperand f (packCode f false (formatSpec f).bias 0) = 0x3F800000#32

/-- R63: exactly the codes of the rule's lists decode to a NaN and to an infinity. -/
def Obligations.NanAndInfinityCodes : Prop :=
  ∀ (f : Format) (c : Word),
    isNaN32 (decOperand f c) = nanCode f (c &&& wmask f) ∧ isInf32 (decOperand f c) = infCode f (c &&& wmask f)

/-! ## Unary value operations -/

/-- R201: NEG flips the sign bit of the masked code, in the six formats that have one (decision D7 for the seventh). -/
def Obligations.NegFlipsTheSignBit : Prop :=
  NegatesWith 0xFF#32 0x80#32 .negE5m2 ∧ NegatesWith 0xFF#32 0x80#32 .negE4m3fn ∧
  NegatesWith 0xFFFF#32 0x8000#32 .negBf16 ∧ NegatesWith 0x3F#32 0x20#32 .negE2m3fn ∧
  NegatesWith 0x3F#32 0x20#32 .negE3m2fn ∧ NegatesWith 0xF#32 0x8#32 .negE2m1fn

/-- R201: NEG of the result of NEG is the masked code, and a code and its negation are NaN codes together. -/
def Obligations.NegTwiceIsTheIdentity : Prop :=
  ∀ (f : Format) (a b : Word) (s : State) (i : Instr), commandOf .neg f a b = some i →
    ∃ r, exec i s = .next (answered r s) ∧ isNaN32 (decOperand f r) = isNaN32 (decOperand f a) ∧
      ∀ (b' : Word) (i' : Instr), commandOf .neg f r b' = some i' → exec i' s = .next (answered (a &&& wmask f) s)

/-- R202: ISNZ tests the masked code without its sign bit; for float8_e8m0 it is 1 for every code; and the
seven command words. -/
def Obligations.IsnzTestsTheMaskedCode : Prop :=
  TestsNonzeroWith 0x7F#32 .isnzE5m2 ∧ TestsNonzeroWith 0x7F#32 .isnzE4m3fn ∧
  (∀ a s, exec (.isnzE8m0 a) s = .next (answered 1#32 s)) ∧
  TestsNonzeroWith 0x7FFF#32 .isnzBf16 ∧ TestsNonzeroWith 0x1F#32 .isnzE2m3fn ∧
  TestsNonzeroWith 0x1F#32 .isnzE3m2fn ∧ TestsNonzeroWith 0x7#32 .isnzE2m1fn ∧
  ∀ a, [(encode (.isnzE5m2 a)).cmd, (encode (.isnzE4m3fn a)).cmd, (encode (.isnzE8m0 a)).cmd, (encode (.isnzBf16 a)).cmd,
    (encode (.isnzE2m3fn a)).cmd, (encode (.isnzE3m2fn a)).cmd, (encode (.isnzE2m1fn a)).cmd] =
    [0x03#32, 0x13#32, 0x23#32, 0x33#32, 0x43#32, 0x53#32, 0x63#32]

/-! ## Arithmetic -/

/-- R203, R204, R206: ADD decodes both codes, adds in IEEE binary32 and encodes, in all seven formats (decisions D13, D14;
IEEE-754 itself is general knowledge in the spec, log entry 14). -/
def Obligations.AddIsIeeeAddition : Prop :=
  ComputesBy IsF32Sum .e5m2 .addE5m2 ∧
  ComputesBy IsF32Sum .e4m3fn .addE4m3fn ∧
  ComputesBy IsF32Sum .e8m0 .addE8m0 ∧
  ComputesBy IsF32Sum .bf16 .addBf16 ∧
  ComputesBy IsF32Sum .e2m3fn .addE2m3fn ∧
  ComputesBy IsF32Sum .e3m2fn .addE3m2fn ∧
  ComputesBy IsF32Sum .e2m1fn .addE2m1fn

/-- R203, R204, R207: SUB likewise with the IEEE binary32 difference (decisions D13, D14;
IEEE-754 itself is general knowledge in the spec, log entry 14). -/
def Obligations.SubIsIeeeSubtraction : Prop :=
  ComputesBy IsF32Difference .e5m2 .subE5m2 ∧
  ComputesBy IsF32Difference .e4m3fn .subE4m3fn ∧
  ComputesBy IsF32Difference .e8m0 .subE8m0 ∧
  ComputesBy IsF32Difference .bf16 .subBf16 ∧
  ComputesBy IsF32Difference .e2m3fn .subE2m3fn ∧
  ComputesBy IsF32Difference .e3m2fn .subE3m2fn ∧
  ComputesBy IsF32Difference .e2m1fn .subE2m1fn

/-- R203, R204, R208: MUL likewise with the IEEE binary32 product (decisions D13, D14;
IEEE-754 itself is general knowledge in the spec, log entry 14). -/
def Obligations.MulIsIeeeMultiplication : Prop :=
  ComputesBy IsF32Product .e5m2 .mulE5m2 ∧
  ComputesBy IsF32Product .e4m3fn .mulE4m3fn ∧
  ComputesBy IsF32Product .e8m0 .mulE8m0 ∧
  ComputesBy IsF32Product .bf16 .mulBf16 ∧
  ComputesBy IsF32Product .e2m3fn .mulE2m3fn ∧
  ComputesBy IsF32Product .e3m2fn .mulE3m2fn ∧
  ComputesBy IsF32Product .e2m1fn .mulE2m1fn

/-- R203, R204, R209: DIV likewise with the IEEE binary32 quotient (decisions D13, D14;
IEEE-754 itself is general knowledge in the spec, log entry 14). -/
def Obligations.DivIsIeeeDivision : Prop :=
  ComputesBy IsF32Quotient .e5m2 .divE5m2 ∧
  ComputesBy IsF32Quotient .e4m3fn .divE4m3fn ∧
  ComputesBy IsF32Quotient .e8m0 .divE8m0 ∧
  ComputesBy IsF32Quotient .bf16 .divBf16 ∧
  ComputesBy IsF32Quotient .e2m3fn .divE2m3fn ∧
  ComputesBy IsF32Quotient .e3m2fn .divE3m2fn ∧
  ComputesBy IsF32Quotient .e2m1fn .divE2m1fn

/-- The rounding relation of the four statements above leaves no choice: an exact number and a sign it admits determine the
binary32 pattern (R204, decision D13; log entry 14). -/
def Obligations.RoundingDeterminesThePattern : Prop :=
  ∀ (v : ℚ) (neg : Bool) (z z' : Word), RoundsTo v neg z → RoundsTo v neg z' → z = z'

/-- R205: the draw is a quiet NaN, and for every quiet NaN `z`, whatever its sign and payload, `Enc(f, z)` is among the codes the
rule lists (decision D14; the draw is the free value of log entry 3). -/
def Obligations.NanResultCodes : Prop :=
  (∀ s : State, (arithNan s).extractLsb' 22 9 = 0x1FF#9) ∧
  ∀ z : Word, z.extractLsb' 22 9 = 0x1FF#9 →
    isNaN32 z = true ∧
    (enc blockParams .e5m2 z = 0x7E#32 ∨ enc blockParams .e5m2 z = 0xFE#32) ∧
    (enc blockParams .e4m3fn z = 0x7F#32 ∨ enc blockParams .e4m3fn z = 0xFF#32) ∧
    enc blockParams .e8m0 z = 0xFF#32 ∧
    (enc blockParams .bf16 z &&& 0x7FFF#32 ≥ 0x7FC0#32 ∧ enc blockParams .bf16 z ≤ 0xFFFF#32) ∧
    (enc blockParams .e2m3fn z = 0x1F#32 ∨ enc blockParams .e2m3fn z = 0x3F#32) ∧
    (enc blockParams .e3m2fn z = 0x1F#32 ∨ enc blockParams .e3m2fn z = 0x3F#32) ∧
    (enc blockParams .e2m1fn z = 0x7#32 ∨ enc blockParams .e2m1fn z = 0xF#32)

/-! ## Comparisons -/

/-- R210: EQ is equality of the decoded patterns bit for bit, so that +0 and -0 differ (conflict C7, log entry 10), except that two
NaNs are equal; and the seven command words. -/
def Obligations.EqHasTheNanQuirk : Prop :=
  EqualsByBitsOrNan .e5m2 .eqE5m2 ∧
  EqualsByBitsOrNan .e4m3fn .eqE4m3fn ∧
  EqualsByBitsOrNan .e8m0 .eqE8m0 ∧
  EqualsByBitsOrNan .bf16 .eqBf16 ∧
  EqualsByBitsOrNan .e2m3fn .eqE2m3fn ∧
  EqualsByBitsOrNan .e3m2fn .eqE3m2fn ∧
  EqualsByBitsOrNan .e2m1fn .eqE2m1fn ∧
  ∀ a b, [(encode (.eqE5m2 a b)).cmd, (encode (.eqE4m3fn a b)).cmd, (encode (.eqE8m0 a b)).cmd, (encode (.eqBf16 a b)).cmd,
    (encode (.eqE2m3fn a b)).cmd, (encode (.eqE3m2fn a b)).cmd, (encode (.eqE2m1fn a b)).cmd] =
    [0x08#32, 0x18#32, 0x28#32, 0x38#32, 0x48#32, 0x58#32, 0x68#32]

/-- R211, R216: on codes, EQ holds for the same code that is no NaN code and for two NaN codes, and NE is its negation (decision
D2 for NE; equality by bits by conflict C7, log entry 10). -/
def Obligations.EqAndNeOnCodes : Prop :=
  EqualOnCodes .e5m2 .eqE5m2 .neE5m2 ∧ EqualOnCodes .e4m3fn .eqE4m3fn .neE4m3fn ∧
  EqualOnCodes .e8m0 .eqE8m0 .neE8m0 ∧ EqualOnCodes .bf16 .eqBf16 .neBf16 ∧
  EqualOnCodes .e2m3fn .eqE2m3fn .neE2m3fn ∧ EqualOnCodes .e3m2fn .eqE3m2fn .neE3m2fn ∧
  EqualOnCodes .e2m1fn .eqE2m1fn .neE2m1fn

/-- R212, R214: LT and GT are the strict orders of the exact values, 0 when either operand is a NaN. That the zeros
are equal and the infinities stand at the ends is general knowledge in the spec (log entry 14, PRESUMED). -/
def Obligations.LtAndGtCompareValues : Prop :=
  ComparesBy (· < ·) .e5m2 .ltE5m2 ∧
  ComparesBy (· < ·) .e4m3fn .ltE4m3fn ∧
  ComparesBy (· < ·) .e8m0 .ltE8m0 ∧
  ComparesBy (· < ·) .bf16 .ltBf16 ∧
  ComparesBy (· < ·) .e2m3fn .ltE2m3fn ∧
  ComparesBy (· < ·) .e3m2fn .ltE3m2fn ∧
  ComparesBy (· < ·) .e2m1fn .ltE2m1fn ∧
  ComparesBy (· > ·) .e5m2 .gtE5m2 ∧
  ComparesBy (· > ·) .e4m3fn .gtE4m3fn ∧
  ComparesBy (· > ·) .e8m0 .gtE8m0 ∧
  ComparesBy (· > ·) .bf16 .gtBf16 ∧
  ComparesBy (· > ·) .e2m3fn .gtE2m3fn ∧
  ComparesBy (· > ·) .e3m2fn .gtE3m2fn ∧
  ComparesBy (· > ·) .e2m1fn .gtE2m1fn

/-- R213, R215: LE and GE are the weak orders of the exact values, 0 when either operand is a NaN. That the zeros
are equal and the infinities stand at the ends is general knowledge in the spec (log entry 14, PRESUMED). -/
def Obligations.LeAndGeCompareValues : Prop :=
  ComparesBy (· ≤ ·) .e5m2 .leE5m2 ∧
  ComparesBy (· ≤ ·) .e4m3fn .leE4m3fn ∧
  ComparesBy (· ≤ ·) .e8m0 .leE8m0 ∧
  ComparesBy (· ≤ ·) .bf16 .leBf16 ∧
  ComparesBy (· ≤ ·) .e2m3fn .leE2m3fn ∧
  ComparesBy (· ≤ ·) .e3m2fn .leE3m2fn ∧
  ComparesBy (· ≤ ·) .e2m1fn .leE2m1fn ∧
  ComparesBy (· ≥ ·) .e5m2 .geE5m2 ∧
  ComparesBy (· ≥ ·) .e4m3fn .geE4m3fn ∧
  ComparesBy (· ≥ ·) .e8m0 .geE8m0 ∧
  ComparesBy (· ≥ ·) .bf16 .geBf16 ∧
  ComparesBy (· ≥ ·) .e2m3fn .geE2m3fn ∧
  ComparesBy (· ≥ ·) .e3m2fn .geE3m2fn ∧
  ComparesBy (· ≥ ·) .e2m1fn .geE2m1fn

/-! ## The host's side -/

/-- R79: quantizing twice is quantizing once, in every format and on every float32 pattern. -/
def Obligations.QuantIsIdempotent : Prop :=
  ∀ (f : Format) (a : Word), quant f (quant f a) = quant f a

/-- R171: widening to float64 keeps the sign and the exact value of a finite float32, and an infinity (decision D20). -/
def Obligations.WideningIsExact : Prop :=
  ∀ w : Word,
    (Finite32 w → f64Exp (widenF32 w) ≠ 2047 ∧ f64Sign (widenF32 w) = f32Sign w ∧ f64Rat (widenF32 w) = f32Rat w) ∧
    (isInf32 w = true → f64Exp (widenF32 w) = 2047 ∧ f64Frac (widenF32 w) = 0 ∧ f64Sign (widenF32 w) = f32Sign w) ∧
    (isNaN32 w = true → f64Exp (widenF32 w) = 2047 ∧ f64Frac (widenF32 w) ≠ 0)

/-- R102: narrowing a float64 and converting an integer round to nearest even, with overflow to a signed infinity; infinities and
zeros keep their sign, and a NaN stays a NaN of its sign (general knowledge in the spec, decision D20). -/
def Obligations.NarrowingRoundsToNearestEven : Prop :=
  (∀ d : BitVec 64,
    (f64Exp d ≠ 2047 → RoundsTo (f64Rat d) (f64Sign d) (narrowF64 d)) ∧
    (f64Exp d = 2047 → f64Frac d = 0 → narrowF64 d = f32Inf (f64Sign d)) ∧
    (f64Exp d = 2047 → f64Frac d ≠ 0 → isNaN32 (narrowF64 d) = true ∧ f32Sign (narrowF64 d) = f64Sign d)) ∧
  ∀ z : ℤ, RoundsTo z (decide (z < 0)) (intToF32 z)

/-- R42, R43: a code takes one byte, or two for bfloat16; what is stored has its unused high bits cleared, and what is read back is
the code, whatever the unused high bits of the stored byte. -/
def Obligations.StoredCodesReadBack : Prop :=
  (∀ f, storageBytes f = if f = .bf16 then 2 else 1) ∧
  (∀ (o : ByteOrder) (f : Format) (c : Word),
    (storeCode o f c).length = storageBytes f ∧ loadCode o f (storeCode o f c) = some (c &&& wmask f)) ∧
  (∀ (o : ByteOrder) (f : Format) (c : Word), f ≠ .bf16 → storeCode o f c = [(c &&& wmask f).extractLsb' 0 8]) ∧
  (∀ (o : ByteOrder) (f : Format) (x : BitVec 8), f ≠ .bf16 → loadCode o f [x] = some (x.setWidth 32 &&& wmask f))
end

