-- ==== Sys2Proof/Laws/Codes.lean ====
section
/-! SUPPORT. Code operands: masking twice is masking once, and every reader of a code sees the masked code only. -/

namespace Sys2Proof.Machine

@[simp] theorem codeOperand_idem (f : Format) (w : Word) : codeOperand f (codeOperand f w) = codeOperand f w := by
  simp [codeOperand, BitVec.and_assoc]

theorem decOperand_congr {f : Format} {w w' : Word} (h : codeOperand f w = codeOperand f w') :
    decOperand f w = decOperand f w' := by simp only [decOperand, h]

theorem negCode_congr {f : Format} {w w' : Word} (h : codeOperand f w = codeOperand f w') :
    negCode f w = negCode f w' := by simp only [negCode, h]

theorem codeNonzero_congr {f : Format} {w w' : Word} (h : codeOperand f w = codeOperand f w') :
    codeNonzero f w = codeNonzero f w' := by simp only [codeNonzero, h]

/-- The sign bit lies inside the code. -/
theorem smask_and_wmask (f : Format) : smask f &&& wmask f = smask f := by cases f <;> decide

end Sys2Proof.Machine
end

