-- ==== Sys2Proof/Laws/Decode.lean ====
section
/-! SUPPORT. What the fields of a command word are, and what the decoder answers. -/

namespace Sys2Proof

theorem commandWord_fields (op : Op) (f : Format) :
    opField (commandWord op f) = opCode op ∧ fmtField (commandWord op f) = fmtCode f ∧
      reservedField (commandWord op f) = 0 := by
  cases op <;> cases f <;> decide

@[simp] theorem opOfField_opCode (op : Op) : opOfField (opCode op) = some op := by cases op <;> rfl

@[simp] theorem fmtOfField_fmtCode (f : Format) : fmtOfField (fmtCode f) = some f := by cases f <;> rfl

/-- A command is the command its operation, format and operands name. -/
theorem commandOf_self (i : Instr) : commandOf i.op i.fmt i.opA i.opB = some i := by cases i <;> rfl

/-- The command named by an operation, a format and two words has that operation, that format and the first word. -/
theorem commandOf_eq_some {op : Op} {f : Format} {a b : Word} {i : Instr} (h : commandOf op f a b = some i) :
    i.op = op ∧ i.fmt = f ∧ i.opA = a := by
  cases op <;> cases f <;> simp [commandOf, negOf, encOf, decOf, isnzOf, addOf, subOf, mulOf, divOf, eqOf, neOf, ltOf, leOf, gtOf, geOf] at h <;> subst h <;> exact ⟨rfl, rfl, rfl⟩

/-- NEG of float8_e8m0 is the only operation and format that name no command. -/
theorem commandOf_eq_none {op : Op} {f : Format} {a b : Word} :
    commandOf op f a b = none ↔ op = .neg ∧ f = .e8m0 := by
  cases op <;> cases f <;> simp [commandOf, negOf]

end Sys2Proof
end

