-- ==== Sys2Proof/Laws/Float32.lean ====
section
/-! SUPPORT. The fields of a float32 pattern: their ranges, the pattern they make up, and the classes of R60. -/

namespace Sys2Proof.Machine

theorem f32Exp_lt (w : Word) : f32Exp w < 256 := (w.extractLsb' 23 8).isLt

theorem f32Frac_lt (w : Word) : f32Frac w < 2 ^ 23 := (w.extractLsb' 0 23).isLt

/-- A pattern is its sign, exponent and fraction. -/
theorem toNat_eq_fields (w : Word) :
    w.toNat = (f32Sign w).toNat * 2 ^ 31 + f32Exp w * 2 ^ 23 + f32Frac w := by
  have hs : (f32Sign w).toNat = w.toNat / 2 ^ 31 % 2 := by
    simp only [f32Sign, BitVec.getLsbD, Nat.testBit_eq_decide_div_mod_eq]
    rcases Nat.mod_two_eq_zero_or_one (w.toNat / 2 ^ 31) with h | h <;>
      rw [h] <;> rfl
  have he : f32Exp w = w.toNat / 2 ^ 23 % 2 ^ 8 := by
    simp [f32Exp, BitVec.extractLsb'_toNat, Nat.shiftRight_eq_div_pow]
  have hf : f32Frac w = w.toNat % 2 ^ 23 := by
    simp [f32Frac, BitVec.extractLsb'_toNat]
  have := w.isLt
  rw [hs, he, hf]
  omega

/-- Equal fields, equal patterns. -/
theorem eq_of_fields {w w' : Word} (hs : f32Sign w = f32Sign w') (he : f32Exp w = f32Exp w')
    (hf : f32Frac w = f32Frac w') : w = w' := by
  apply BitVec.eq_of_toNat_eq
  rw [toNat_eq_fields w, toNat_eq_fields w', hs, he, hf]

theorem isNaN32_iff (w : Word) : isNaN32 w = true ↔ f32Exp w = 255 ∧ f32Frac w ≠ 0 := by simp [isNaN32]

theorem isInf32_iff (w : Word) : isInf32 w = true ↔ f32Exp w = 255 ∧ f32Frac w = 0 := by simp [isInf32]

/-- Every pattern is a NaN, an infinity, or finite, and its value says which (R14, R60). -/
theorem f32Value_cases (w : Word) :
    (isNaN32 w = true ∧ f32Value w = .nan) ∨
    (isInf32 w = true ∧ f32Value w = .inf (f32Sign w)) ∨
    (f32Exp w ≠ 255 ∧ f32Value w = .fin (f32Sign w) (f32Mag (f32Exp w) (f32Frac w))) := by
  by_cases he : f32Exp w = 255 <;> by_cases hf : f32Frac w = 0 <;>
    simp [isNaN32, isInf32, f32Value, he, hf]

/-- A finite magnitude is zero exactly for the two zero patterns. -/
theorem f32Mag_eq_zero {exp8 frac23 : Nat} : f32Mag exp8 frac23 = 0 ↔ exp8 = 0 ∧ frac23 = 0 := by
  unfold f32Mag
  split <;> simp_all

end Sys2Proof.Machine
end

