-- ==== Sys2Proof/Laws/Exact.lean ====
section
/-! SUPPORT. The exact value of a finite pattern is its magnitude, counted in units of `2^-149`. -/

namespace Sys2Proof.Exact

open Sys2Proof.Machine

theorem f32Rat_eq_mag (w : Word) :
    f32Rat w = (if f32Sign w then -1 else 1) * ((f32Mag (f32Exp w) (f32Frac w) : ℚ) * 2 ^ (-149 : ℤ)) := by
  unfold f32Rat f32Mag
  congr 1
  split
  · ring
  · rename_i he
    have h : ((f32Exp w : ℤ) - 127) = ((f32Exp w - 1 : ℕ) : ℤ) + 23 + (-149) := by omega
    rw [h, zpow_add₀ (by norm_num), zpow_add₀ (by norm_num), zpow_natCast]
    push_cast
    ring

/-- The magnitude of the exact value. -/
theorem abs_f32Rat (w : Word) : |f32Rat w| = (f32Mag (f32Exp w) (f32Frac w) : ℚ) * 2 ^ (-149 : ℤ) := by
  rw [f32Rat_eq_mag, abs_mul, abs_of_nonneg (a := (f32Mag (f32Exp w) (f32Frac w) : ℚ) * 2 ^ (-149 : ℤ)) (by positivity)]
  split <;> simp

end Sys2Proof.Exact
end

