-- ==== Sys2Proof/Laws/State.lean ====
section
/-! SUPPORT. What each update of the state does to each field, so that no proof unfolds a record update. -/

namespace Sys2Proof.Machine

@[simp] theorem reset_inflight : State.reset.inflight = [] := rfl
@[simp] theorem reset_responses : State.reset.responses = [] := rfl

@[simp] theorem issue_inflight (q : Request) (s : State) : (issue q s).inflight = s.inflight ++ [q] := rfl
@[simp] theorem issue_responses (q : Request) (s : State) : (issue q s).responses = s.responses := rfl
@[simp] theorem issue_draws (q : Request) (s : State) : (issue q s).draws = s.draws := rfl

@[simp] theorem assertReset_inflight (s : State) : (assertReset s).inflight = [] := rfl
@[simp] theorem assertReset_responses (s : State) : (assertReset s).responses = s.responses := rfl
@[simp] theorem assertReset_draws (s : State) : (assertReset s).draws = s.draws := rfl

@[simp] theorem deliver_inflight (resp : Response) (s : State) : (deliver resp s).inflight = s.inflight := rfl
@[simp] theorem deliver_responses (resp : Response) (s : State) :
    (deliver resp s).responses = s.responses ++ [resp] := rfl
@[simp] theorem deliver_draws (resp : Response) (s : State) : (deliver resp s).draws = s.draws := rfl

@[simp] theorem advanceDraw_inflight (s : State) : (advanceDraw s).inflight = s.inflight := rfl
@[simp] theorem advanceDraw_responses (s : State) : (advanceDraw s).responses = s.responses := rfl
@[simp] theorem advanceDraw_draws (s : State) : (advanceDraw s).draws = s.draws + 1 := rfl

/-- Only the draw counter decides the draw. -/
theorem arithNan_congr {s t : State} (h : s.draws = t.draws) : arithNan s = arithNan t := by
  simp only [arithNan, h]

end Sys2Proof.Machine
end

