-- ==== Sys2Proof/Laws/Ops.lean ====
section
/-! SUPPORT. What each shared operation answers, once. -/

namespace Sys2Proof.Machine

theorem respond_next (r : Word) (s : State) : respond r s = .next (deliver ⟨r, false⟩ s) := rfl

theorem illegalCommand_next (e : Reject) (s : State) : illegalCommand e s = .next (deliver ⟨0#32, true⟩ s) := rfl

theorem takeRequest_nil {s : State} (h : s.inflight = []) : takeRequest s = none := by
  simp only [takeRequest, h]

theorem takeRequest_cons {s : State} {q : Request} {rest : List Request} (h : s.inflight = q :: rest) :
    takeRequest s = some (q, { s with inflight := rest }) := by
  simp only [takeRequest, h]

theorem encCommand_next (f : Format) (a : Word) (s : State) :
    encCommand f a s = .next (deliver ⟨enc blockParams f a, false⟩ s) := rfl

theorem decCommand_next (f : Format) (a : Word) (s : State) :
    decCommand f a s = .next (deliver ⟨decOperand f a, false⟩ s) := rfl

theorem negCommand_next (f : Format) (a : Word) (s : State) :
    negCommand f a s = .next (deliver ⟨negCode f a, false⟩ s) := rfl

theorem isnzCommand_next (f : Format) (a : Word) (s : State) :
    isnzCommand f a s = .next (deliver ⟨boolWord (codeNonzero f a), false⟩ s) := rfl

theorem eqCommand_next (f : Format) (a b : Word) (s : State) :
    eqCommand f a b s = .next (deliver ⟨boolWord (codesEqual f a b), false⟩ s) := rfl

theorem neCommand_next (f : Format) (a b : Word) (s : State) :
    neCommand f a b s = .next (deliver ⟨1#32 - boolWord (codesEqual f a b), false⟩ s) := rfl

theorem orderedCommand_next (f : Format) (rel : Ordering → Bool) (a b : Word) (s : State) :
    orderedCommand f rel a b s = .next (deliver ⟨boolWord (ordered f rel a b), false⟩ s) := rfl

/-- An arithmetic command answers the encoding of its result, or of the draw it uses up. -/
theorem arithCommand_next (f : Format) (op : Word → Word → Option Word) (a b : Word) (s : State) :
    (∃ z, op (decOperand f a) (decOperand f b) = some z ∧
      arithCommand f op a b s = .next (deliver ⟨enc blockParams f z, false⟩ s)) ∨
    (op (decOperand f a) (decOperand f b) = none ∧
      arithCommand f op a b s = .next (deliver ⟨enc blockParams f (arithNan s), false⟩ (advanceDraw s))) := by
  unfold arithCommand
  cases op (decOperand f a) (decOperand f b) with
  | some z => exact .inl ⟨z, rfl, rfl⟩
  | none => exact .inr ⟨rfl, rfl⟩

theorem boolWord_cases (b : Bool) : boolWord b = 0#32 ∨ boolWord b = 1#32 := by cases b <;> simp [boolWord]

@[simp] theorem boolWord_eq_one {b : Bool} : boolWord b = 1#32 ↔ b = true := by cases b <;> simp [boolWord]

@[simp] theorem one_sub_boolWord (b : Bool) : 1#32 - boolWord b = boolWord (!b) := by cases b <;> rfl

end Sys2Proof.Machine
end

