-- ==== Sys2Proof/Laws/PerInstr.lean ====
section
/-! SUPPORT. Statements made per command, as syntax: the fields of the command word that encodes it. -/

namespace Sys2Proof.Laws.CommandFields

/-- The encoded command word holds the command's op value in bits [3:0], its fmt value in bits [6:4] and zeros above (R70 to R73). -/
def Statement (i : Instr) : Prop :=
  opField (encode i).cmd = opCode i.op ∧ fmtField (encode i).cmd = fmtCode i.fmt ∧ reservedField (encode i).cmd = 0

theorem encE5m2 (a : Word) : Statement (.encE5m2 a) := commandWord_fields _ _
theorem encE4m3fn (a : Word) : Statement (.encE4m3fn a) := commandWord_fields _ _
theorem encE8m0 (a : Word) : Statement (.encE8m0 a) := commandWord_fields _ _
theorem encBf16 (a : Word) : Statement (.encBf16 a) := commandWord_fields _ _
theorem encE2m3fn (a : Word) : Statement (.encE2m3fn a) := commandWord_fields _ _
theorem encE3m2fn (a : Word) : Statement (.encE3m2fn a) := commandWord_fields _ _
theorem encE2m1fn (a : Word) : Statement (.encE2m1fn a) := commandWord_fields _ _
theorem decE5m2 (a : Word) : Statement (.decE5m2 a) := commandWord_fields _ _
theorem decE4m3fn (a : Word) : Statement (.decE4m3fn a) := commandWord_fields _ _
theorem decE8m0 (a : Word) : Statement (.decE8m0 a) := commandWord_fields _ _
theorem decBf16 (a : Word) : Statement (.decBf16 a) := commandWord_fields _ _
theorem decE2m3fn (a : Word) : Statement (.decE2m3fn a) := commandWord_fields _ _
theorem decE3m2fn (a : Word) : Statement (.decE3m2fn a) := commandWord_fields _ _
theorem decE2m1fn (a : Word) : Statement (.decE2m1fn a) := commandWord_fields _ _
theorem negE5m2 (a : Word) : Statement (.negE5m2 a) := commandWord_fields _ _
theorem negE4m3fn (a : Word) : Statement (.negE4m3fn a) := commandWord_fields _ _
theorem negBf16 (a : Word) : Statement (.negBf16 a) := commandWord_fields _ _
theorem negE2m3fn (a : Word) : Statement (.negE2m3fn a) := commandWord_fields _ _
theorem negE3m2fn (a : Word) : Statement (.negE3m2fn a) := commandWord_fields _ _
theorem negE2m1fn (a : Word) : Statement (.negE2m1fn a) := commandWord_fields _ _
theorem isnzE5m2 (a : Word) : Statement (.isnzE5m2 a) := commandWord_fields _ _
theorem isnzE4m3fn (a : Word) : Statement (.isnzE4m3fn a) := commandWord_fields _ _
theorem isnzE8m0 (a : Word) : Statement (.isnzE8m0 a) := commandWord_fields _ _
theorem isnzBf16 (a : Word) : Statement (.isnzBf16 a) := commandWord_fields _ _
theorem isnzE2m3fn (a : Word) : Statement (.isnzE2m3fn a) := commandWord_fields _ _
theorem isnzE3m2fn (a : Word) : Statement (.isnzE3m2fn a) := commandWord_fields _ _
theorem isnzE2m1fn (a : Word) : Statement (.isnzE2m1fn a) := commandWord_fields _ _
theorem addE5m2 (a b : Word) : Statement (.addE5m2 a b) := commandWord_fields _ _
theorem addE4m3fn (a b : Word) : Statement (.addE4m3fn a b) := commandWord_fields _ _
theorem addE8m0 (a b : Word) : Statement (.addE8m0 a b) := commandWord_fields _ _
theorem addBf16 (a b : Word) : Statement (.addBf16 a b) := commandWord_fields _ _
theorem addE2m3fn (a b : Word) : Statement (.addE2m3fn a b) := commandWord_fields _ _
theorem addE3m2fn (a b : Word) : Statement (.addE3m2fn a b) := commandWord_fields _ _
theorem addE2m1fn (a b : Word) : Statement (.addE2m1fn a b) := commandWord_fields _ _
theorem subE5m2 (a b : Word) : Statement (.subE5m2 a b) := commandWord_fields _ _
theorem subE4m3fn (a b : Word) : Statement (.subE4m3fn a b) := commandWord_fields _ _
theorem subE8m0 (a b : Word) : Statement (.subE8m0 a b) := commandWord_fields _ _
theorem subBf16 (a b : Word) : Statement (.subBf16 a b) := commandWord_fields _ _
theorem subE2m3fn (a b : Word) : Statement (.subE2m3fn a b) := commandWord_fields _ _
theorem subE3m2fn (a b : Word) : Statement (.subE3m2fn a b) := commandWord_fields _ _
theorem subE2m1fn (a b : Word) : Statement (.subE2m1fn a b) := commandWord_fields _ _
theorem mulE5m2 (a b : Word) : Statement (.mulE5m2 a b) := commandWord_fields _ _
theorem mulE4m3fn (a b : Word) : Statement (.mulE4m3fn a b) := commandWord_fields _ _
theorem mulE8m0 (a b : Word) : Statement (.mulE8m0 a b) := commandWord_fields _ _
theorem mulBf16 (a b : Word) : Statement (.mulBf16 a b) := commandWord_fields _ _
theorem mulE2m3fn (a b : Word) : Statement (.mulE2m3fn a b) := commandWord_fields _ _
theorem mulE3m2fn (a b : Word) : Statement (.mulE3m2fn a b) := commandWord_fields _ _
theorem mulE2m1fn (a b : Word) : Statement (.mulE2m1fn a b) := commandWord_fields _ _
theorem divE5m2 (a b : Word) : Statement (.divE5m2 a b) := commandWord_fields _ _
theorem divE4m3fn (a b : Word) : Statement (.divE4m3fn a b) := commandWord_fields _ _
theorem divE8m0 (a b : Word) : Statement (.divE8m0 a b) := commandWord_fields _ _
theorem divBf16 (a b : Word) : Statement (.divBf16 a b) := commandWord_fields _ _
theorem divE2m3fn (a b : Word) : Statement (.divE2m3fn a b) := commandWord_fields _ _
theorem divE3m2fn (a b : Word) : Statement (.divE3m2fn a b) := commandWord_fields _ _
theorem divE2m1fn (a b : Word) : Statement (.divE2m1fn a b) := commandWord_fields _ _
theorem eqE5m2 (a b : Word) : Statement (.eqE5m2 a b) := commandWord_fields _ _
theorem eqE4m3fn (a b : Word) : Statement (.eqE4m3fn a b) := commandWord_fields _ _
theorem eqE8m0 (a b : Word) : Statement (.eqE8m0 a b) := commandWord_fields _ _
theorem eqBf16 (a b : Word) : Statement (.eqBf16 a b) := commandWord_fields _ _
theorem eqE2m3fn (a b : Word) : Statement (.eqE2m3fn a b) := commandWord_fields _ _
theorem eqE3m2fn (a b : Word) : Statement (.eqE3m2fn a b) := commandWord_fields _ _
theorem eqE2m1fn (a b : Word) : Statement (.eqE2m1fn a b) := commandWord_fields _ _
theorem neE5m2 (a b : Word) : Statement (.neE5m2 a b) := commandWord_fields _ _
theorem neE4m3fn (a b : Word) : Statement (.neE4m3fn a b) := commandWord_fields _ _
theorem neE8m0 (a b : Word) : Statement (.neE8m0 a b) := commandWord_fields _ _
theorem neBf16 (a b : Word) : Statement (.neBf16 a b) := commandWord_fields _ _
theorem neE2m3fn (a b : Word) : Statement (.neE2m3fn a b) := commandWord_fields _ _
theorem neE3m2fn (a b : Word) : Statement (.neE3m2fn a b) := commandWord_fields _ _
theorem neE2m1fn (a b : Word) : Statement (.neE2m1fn a b) := commandWord_fields _ _
theorem ltE5m2 (a b : Word) : Statement (.ltE5m2 a b) := commandWord_fields _ _
theorem ltE4m3fn (a b : Word) : Statement (.ltE4m3fn a b) := commandWord_fields _ _
theorem ltE8m0 (a b : Word) : Statement (.ltE8m0 a b) := commandWord_fields _ _
theorem ltBf16 (a b : Word) : Statement (.ltBf16 a b) := commandWord_fields _ _
theorem ltE2m3fn (a b : Word) : Statement (.ltE2m3fn a b) := commandWord_fields _ _
theorem ltE3m2fn (a b : Word) : Statement (.ltE3m2fn a b) := commandWord_fields _ _
theorem ltE2m1fn (a b : Word) : Statement (.ltE2m1fn a b) := commandWord_fields _ _
theorem leE5m2 (a b : Word) : Statement (.leE5m2 a b) := commandWord_fields _ _
theorem leE4m3fn (a b : Word) : Statement (.leE4m3fn a b) := commandWord_fields _ _
theorem leE8m0 (a b : Word) : Statement (.leE8m0 a b) := commandWord_fields _ _
theorem leBf16 (a b : Word) : Statement (.leBf16 a b) := commandWord_fields _ _
theorem leE2m3fn (a b : Word) : Statement (.leE2m3fn a b) := commandWord_fields _ _
theorem leE3m2fn (a b : Word) : Statement (.leE3m2fn a b) := commandWord_fields _ _
theorem leE2m1fn (a b : Word) : Statement (.leE2m1fn a b) := commandWord_fields _ _
theorem gtE5m2 (a b : Word) : Statement (.gtE5m2 a b) := commandWord_fields _ _
theorem gtE4m3fn (a b : Word) : Statement (.gtE4m3fn a b) := commandWord_fields _ _
theorem gtE8m0 (a b : Word) : Statement (.gtE8m0 a b) := commandWord_fields _ _
theorem gtBf16 (a b : Word) : Statement (.gtBf16 a b) := commandWord_fields _ _
theorem gtE2m3fn (a b : Word) : Statement (.gtE2m3fn a b) := commandWord_fields _ _
theorem gtE3m2fn (a b : Word) : Statement (.gtE3m2fn a b) := commandWord_fields _ _
theorem gtE2m1fn (a b : Word) : Statement (.gtE2m1fn a b) := commandWord_fields _ _
theorem geE5m2 (a b : Word) : Statement (.geE5m2 a b) := commandWord_fields _ _
theorem geE4m3fn (a b : Word) : Statement (.geE4m3fn a b) := commandWord_fields _ _
theorem geE8m0 (a b : Word) : Statement (.geE8m0 a b) := commandWord_fields _ _
theorem geBf16 (a b : Word) : Statement (.geBf16 a b) := commandWord_fields _ _
theorem geE2m3fn (a b : Word) : Statement (.geE2m3fn a b) := commandWord_fields _ _
theorem geE3m2fn (a b : Word) : Statement (.geE3m2fn a b) := commandWord_fields _ _
theorem geE2m1fn (a b : Word) : Statement (.geE2m1fn a b) := commandWord_fields _ _

end Sys2Proof.Laws.CommandFields
end

