-- ==== Sys2Proof/Laws/Rounder.lean ====
section
/-! SUPPORT. The rounder: its distance from the exact quotient, its bounds (R101), and its value on an integer quotient. -/

namespace Sys2Proof.Machine

/-- The result is the floor or one more, decided by twice the remainder, and at a tie it is even (R100). -/
theorem rhe_cases (num : Int) (den : Nat) :
    let rem := num - num / (den : Int) * den
    (2 * rem > den ∧ rhe num den = num / (den : Int) + 1) ∨
    (2 * rem < den ∧ rhe num den = num / (den : Int)) ∨
    (2 * rem = den ∧ rhe num den % 2 = 0 ∧
      (rhe num den = num / (den : Int) ∨ rhe num den = num / (den : Int) + 1)) := by
  simp only [rhe]
  split
  · exact .inl ⟨‹_›, rfl⟩
  · split
    · exact .inr (.inl ⟨‹_›, rfl⟩)
    · split
      · exact .inr (.inr ⟨by omega, by omega, .inl rfl⟩)
      · exact .inr (.inr ⟨by omega, by omega, .inr rfl⟩)

/-- The floor identity behind every bound on `rhe`. -/
theorem rhe_floor (num : Int) {den : Nat} (hd : 0 < den) :
    num / (den : Int) * den ≤ num ∧ num < num / (den : Int) * den + den := by
  have hd' : (0 : Int) < den := by exact_mod_cast hd
  have h := Int.mul_ediv_add_emod num den
  have h1 := Int.emod_nonneg num (ne_of_gt hd')
  have h2 := Int.emod_lt_of_pos num hd'
  constructor <;> nlinarith

/-- `|num / den - RHE| <= 1/2`, as integers. -/
theorem rhe_near (num : Int) {den : Nat} (hd : 0 < den) :
    2 * (num - rhe num den * den) ≤ den ∧ -(den : Int) ≤ 2 * (num - rhe num den * den) := by
  obtain ⟨h1, h2⟩ := rhe_floor num hd
  have hc := rhe_cases num den
  simp only at hc
  obtain ⟨hr, h⟩ | ⟨hr, h⟩ | ⟨hr, -, h | h⟩ := hc <;> rw [h] <;> constructor <;> linarith

/-- Rounding keeps the order of the exact quotients against an integer: `k <= num / den` gives `k <= RHE`. -/
theorem le_rhe {num k : Int} {den : Nat} (hd : 0 < den) (h : k * den ≤ num) : k ≤ rhe num den := by
  have hd' : (0 : Int) < den := by exact_mod_cast hd
  have h1 : k ≤ num / (den : Int) := (Int.le_ediv_iff_mul_le hd').2 h
  have hc := rhe_cases num den
  simp only at hc
  obtain ⟨-, h'⟩ | ⟨-, h'⟩ | ⟨-, -, h' | h'⟩ := hc <;> omega

/-- Rounding keeps the order of the exact quotients against an integer: `num / den <= k` gives `RHE <= k`. -/
theorem rhe_le {num k : Int} {den : Nat} (hd : 0 < den) (h : num ≤ k * den) : rhe num den ≤ k := by
  obtain ⟨-, h2⟩ := rhe_near num hd
  have hd' : (0 : Int) < den := by exact_mod_cast hd
  by_contra hk
  have hk' : k + 1 ≤ rhe num den := by omega
  have : (k + 1) * (den : Int) ≤ rhe num den * den := Int.mul_le_mul_of_nonneg_right hk' (le_of_lt hd')
  nlinarith

/-- An integer quotient is not moved. -/
@[simp] theorem rhe_mul_self (k : Int) {den : Nat} (hd : 0 < den) : rhe (k * den) den = k :=
  le_antisymm (rhe_le hd le_rfl) (le_rhe hd le_rfl)

/-- The result for a nonnegative argument is nonnegative (R101). -/
theorem rhe_nonneg {num : Int} {den : Nat} (hd : 0 < den) (h : 0 ≤ num) : 0 ≤ rhe num den :=
  le_rhe hd (by simpa using h)

/-- Rounding is monotone. -/
theorem rhe_mono {num num' : Int} {den : Nat} (hd : 0 < den) (h : num ≤ num') : rhe num den ≤ rhe num' den := by
  have hd' : (0 : Int) < den := by exact_mod_cast hd
  have hq : num / (den : Int) ≤ num' / (den : Int) := Int.ediv_le_ediv hd' h
  obtain ⟨h1, h2⟩ := rhe_floor num hd
  by_contra hlt
  have a := rhe_cases num den
  have b := rhe_cases num' den
  simp only at a b
  rcases eq_or_lt_of_le hq with heq | hlt'
  · rw [← heq] at b
    obtain ⟨ar, a⟩ | ⟨ar, a⟩ | ⟨ar, ae, a | a⟩ := a <;> obtain ⟨br, b⟩ | ⟨br, b⟩ | ⟨br, be, b | b⟩ := b <;>
      omega
  · obtain ⟨ar, a⟩ | ⟨ar, a⟩ | ⟨ar, ae, a | a⟩ := a <;> obtain ⟨br, b⟩ | ⟨br, b⟩ | ⟨br, be, b | b⟩ := b <;> omega

end Sys2Proof.Machine
end

