-- ==== Sys2Proof/Laws/Rounding.lean ====
section
/-! SUPPORT. The rounder gives the nearest float32, ties to the even pattern: from RHE, over the grid of the patterns, to the
relation `RoundsTo` that the arithmetic statements use. -/

namespace Sys2Proof.Machine

/-- Twice the distance to the result decides: no integer is nearer, and a tie means an even result. -/
theorem rhe_nearest (num k : Int) {den : Nat} (hd : 0 < den) :
    |num - rhe num den * den| ≤ |num - k * den| ∧
    (|num - rhe num den * den| = |num - k * den| → k ≠ rhe num den → rhe num den % 2 = 0) := by
  have hd' : (0 : Int) < den := by exact_mod_cast hd
  obtain ⟨h1, h2⟩ := rhe_near num hd
  by_cases hk : k = rhe num den
  · subst hk; exact ⟨le_rfl, fun _ h => absurd rfl h⟩
  have habs : 2 * |num - rhe num den * den| ≤ den := by
    rcases abs_cases (num - rhe num den * den) with ⟨h, -⟩ | ⟨h, -⟩ <;> rw [h] <;> omega
  have hfar : (den : Int) ≤ |num - rhe num den * den| + |num - k * den| := by
    have h3 : (den : Int) ≤ |(k - rhe num den) * den| := by
      rw [abs_mul, abs_of_pos hd']
      have : 1 ≤ |k - rhe num den| := Int.one_le_abs (sub_ne_zero.2 hk)
      nlinarith
    have h4 : (k - rhe num den) * (den : Int) = (num - rhe num den * den) - (num - k * den) := by ring
    rw [h4] at h3
    exact h3.trans (abs_sub _ _)
  refine ⟨by omega, fun heq _ => ?_⟩
  have htie : 2 * |num - rhe num den * den| = den := by omega
  have hc := rhe_cases num den
  simp only at hc
  obtain ⟨hr, h⟩ | ⟨hr, h⟩ | ⟨-, he, -⟩ := hc
  · exfalso
    obtain ⟨h7, h8⟩ := rhe_floor num hd
    have : num - rhe num den * den = (num - num / (den : Int) * den) - den := by rw [h]; ring
    rw [this, abs_of_nonpos (by linarith)] at htie
    linarith
  · rw [h] at htie
    exfalso
    obtain ⟨h7, h8⟩ := rhe_floor num hd
    rw [abs_of_nonneg (by omega)] at htie
    omega
  · exact he

/-- The magnitude of the `n`-th nonnegative float32 pattern, in units of `2^-149`. -/
def gridMag (n : Nat) : Nat := f32Mag (n / 2 ^ 23) (n % 2 ^ 23)

/-- The pattern `shift * 2^23 + sig` has magnitude `sig * 2^shift`, for a normal significand, or with no shift. -/
theorem gridMag_of_sig {shift sig : Nat} (hs : sig ≤ 2 ^ 24) (hn : shift = 0 ∨ 2 ^ 23 ≤ sig) :
    gridMag (shift * 2 ^ 23 + sig) = sig * 2 ^ shift := by
  have hdiv : (shift * 2 ^ 23 + sig) / 2 ^ 23 = shift + sig / 2 ^ 23 := by omega
  have hmod : (shift * 2 ^ 23 + sig) % 2 ^ 23 = sig % 2 ^ 23 := by omega
  unfold gridMag f32Mag
  rw [hdiv, hmod]
  have hcase : sig < 2 ^ 23 ∨ (2 ^ 23 ≤ sig ∧ sig < 2 ^ 24) ∨ sig = 2 ^ 24 := by omega
  obtain h | ⟨h, h'⟩ | h := hcase
  · have : sig / 2 ^ 23 = 0 := by omega
    have h0 : shift = 0 := by omega
    rw [this, h0, if_pos rfl]; omega
  · have : sig / 2 ^ 23 = 1 := by omega
    rw [this, if_neg (by omega), Nat.add_sub_cancel]
    congr 1; omega
  · subst h
    rw [if_neg (by omega)]
    have : shift + 2 ^ 24 / 2 ^ 23 - 1 = shift + 1 := by omega
    rw [this, pow_succ]
    norm_num
    ring

/-- Every pattern is below the significand range of `shift`, or an exact multiple of `2^shift`. -/
theorem gridMag_split (shift n : Nat) :
    (gridMag n ≤ 2 ^ 23 * 2 ^ shift ∧ shift ≠ 0) ∨ ∃ k, gridMag n = k * 2 ^ shift := by
  by_cases h0 : shift = 0
  · exact .inr ⟨gridMag n, by simp [h0]⟩
  by_cases h : n / 2 ^ 23 ≤ shift
  · refine .inl ⟨?_, h0⟩
    unfold gridMag f32Mag
    have hm : n % 2 ^ 23 < 2 ^ 23 := Nat.mod_lt _ (by norm_num)
    split
    · have : 1 ≤ 2 ^ shift := Nat.one_le_two_pow
      nlinarith
    · have h1 : 2 ^ (n / 2 ^ 23 - 1) * 2 ≤ 2 ^ shift := by
        rw [← pow_succ]; exact Nat.pow_le_pow_right (by norm_num) (by omega)
      calc (2 ^ 23 + n % 2 ^ 23) * 2 ^ (n / 2 ^ 23 - 1)
          ≤ (2 ^ 23 * 2) * 2 ^ (n / 2 ^ 23 - 1) := Nat.mul_le_mul_right _ (by omega)
        _ = 2 ^ 23 * (2 ^ (n / 2 ^ 23 - 1) * 2) := by ring
        _ ≤ 2 ^ 23 * 2 ^ shift := Nat.mul_le_mul_left _ h1
  · refine .inr ⟨(2 ^ 23 + n % 2 ^ 23) * 2 ^ (n / 2 ^ 23 - 1 - shift), ?_⟩
    unfold gridMag f32Mag
    rw [if_neg (by omega), mul_assoc, ← pow_add]
    congr 2; omega

/-- The exponent above the subnormal range that `f32RoundBits` chooses: the quotient's significand lies in the range of `shift`. -/
theorem roundShift_spec (num : Nat) {den : Nat} (hd : 0 < den) :
    let shift := Nat.log2 (num / den) - 23
    num < 2 ^ 24 * 2 ^ shift * den ∧ (shift = 0 ∨ 2 ^ 23 * 2 ^ shift * den ≤ num) := by
  intro shift
  by_cases h0 : num / den = 0
  · have hs : shift = 0 := by simp [shift, h0, Nat.log2]
    have : num < den := by
      rcases Nat.div_eq_zero_iff.1 h0 with h | h <;> omega
    rw [hs]
    exact ⟨by nlinarith, .inl rfl⟩
  · have h1 : 2 ^ Nat.log2 (num / den) ≤ num / den := Nat.log2_self_le h0
    have h2 : num / den < 2 ^ (Nat.log2 (num / den) + 1) := Nat.lt_log2_self
    constructor
    · have h3 : 2 ^ (Nat.log2 (num / den) + 1) ≤ 2 ^ 24 * 2 ^ shift := by
        rw [← pow_add]; exact Nat.pow_le_pow_right (by norm_num) (by omega)
      exact (Nat.div_lt_iff_lt_mul hd).1 (lt_of_lt_of_le h2 h3)
    · by_cases hs : shift = 0
      · exact .inl hs
      · right
        have h3 : 2 ^ 23 * 2 ^ shift = 2 ^ Nat.log2 (num / den) := by
          rw [← pow_add]; congr 1; omega
        rw [h3]
        exact (Nat.le_div_iff_mul_le hd).1 h1

/-- What `f32RoundBits` gives: its significand, the exact magnitude of the pattern, and that no pattern is nearer to the
quotient, with bit 0 clear at a tie. -/
theorem f32RoundBits_nearest (num : Nat) {den : Nat} (hd : 0 < den) (n : Nat) :
    |(num : ℤ) - gridMag (f32RoundBits num den) * den| ≤ |(num : ℤ) - gridMag n * den| ∧
    (|(num : ℤ) - gridMag (f32RoundBits num den) * den| = |(num : ℤ) - gridMag n * den| →
      gridMag n ≠ gridMag (f32RoundBits num den) → f32RoundBits num den % 2 = 0) := by
  obtain ⟨hhi, hlo⟩ := roundShift_spec num hd
  unfold f32RoundBits
  simp only
  generalize hsh : Nat.log2 (num / den) - 23 = shift at hhi hlo ⊢
  have hu : 0 < 2 ^ shift := Nat.two_pow_pos shift
  have hd' : 0 < den * 2 ^ shift := Nat.mul_pos hd hu
  have hr0 : 0 ≤ rhe num (den * 2 ^ shift) := rhe_nonneg hd' (by positivity)
  obtain ⟨sig, hsig⟩ := Int.eq_ofNat_of_zero_le hr0
  have hsig24 : sig ≤ 2 ^ 24 := by
    have : rhe num (den * 2 ^ shift) ≤ (2 ^ 24 : ℤ) := rhe_le hd' (by
      have : (num : ℤ) ≤ 2 ^ 24 * 2 ^ shift * den := by exact_mod_cast hhi.le
      push_cast; linarith)
    rw [hsig] at this; exact_mod_cast this
  have hsig23 : shift = 0 ∨ 2 ^ 23 ≤ sig := by
    refine hlo.imp id fun h => ?_
    have : (2 ^ 23 : ℤ) ≤ rhe num (den * 2 ^ shift) := le_rhe hd' (by
      have : (2 : ℤ) ^ 23 * 2 ^ shift * den ≤ num := by exact_mod_cast h
      push_cast; linarith)
    rw [hsig] at this; exact_mod_cast this
  rw [hsig, Int.toNat_natCast, gridMag_of_sig hsig24 hsig23]
  have hnear := fun k : ℤ => rhe_nearest num k hd'
  rw [hsig] at hnear
  have hcast : ∀ k : ℤ, k * ((den * 2 ^ shift : ℕ) : ℤ) = k * 2 ^ shift * den := by intro k; push_cast; ring
  have hpar : (shift * 2 ^ 23 + sig) % 2 = sig % 2 := by omega
  rw [hpar]
  simp only [hcast] at hnear
  push_cast
  obtain ⟨hle, hs0⟩ | ⟨k, hk⟩ := gridMag_split shift n
  · have h23 := hlo.resolve_left hs0
    have hle' : (gridMag n : ℤ) * den ≤ 2 ^ 23 * 2 ^ shift * den := by
      have : (gridMag n : ℤ) ≤ 2 ^ 23 * 2 ^ shift := by exact_mod_cast hle
      exact mul_le_mul_of_nonneg_right this (by positivity)
    have h23' : (2 : ℤ) ^ 23 * 2 ^ shift * den ≤ num := by exact_mod_cast h23
    obtain ⟨ha, hb⟩ := hnear (2 ^ 23)
    rw [abs_of_nonneg (a := (num : ℤ) - 2 ^ 23 * 2 ^ shift * den) (by linarith)] at ha hb
    rw [abs_of_nonneg (a := (num : ℤ) - gridMag n * den) (by linarith)]
    refine ⟨by linarith, fun heq hne => ?_⟩
    have heq' : |(num : ℤ) - sig * 2 ^ shift * den| = num - 2 ^ 23 * 2 ^ shift * den := by linarith
    by_cases hs23 : (2 : ℤ) ^ 23 = sig
    · exfalso
      apply hne
      have h5 : (gridMag n : ℤ) * den = (sig * 2 ^ shift) * den := by rw [← hs23]; linarith
      have hdz : (den : ℤ) ≠ 0 := by exact_mod_cast hd.ne'
      exact_mod_cast mul_right_cancel₀ hdz h5
    · have := hb heq' hs23
      omega
  · rw [hk]
    obtain ⟨ha, hb⟩ := hnear k
    push_cast
    refine ⟨ha, fun heq hne => ?_⟩
    have hks : (k : ℤ) ≠ sig := by
      intro h; apply hne
      have : k = sig := by exact_mod_cast h
      rw [this]
    have := hb heq hks
    omega

/-- The fields of a sign bit and a magnitude pattern below `2^31`. -/
theorem fields_of_sign_or (s : Bool) {n : Nat} (hn : n < 2 ^ 31) :
    f32Sign (f32SignBit s ||| BitVec.ofNat 32 n) = s ∧ f32Exp (f32SignBit s ||| BitVec.ofNat 32 n) = n / 2 ^ 23 ∧
      f32Frac (f32SignBit s ||| BitVec.ofNat 32 n) = n % 2 ^ 23 := by
  have hto : (f32SignBit s ||| BitVec.ofNat 32 n).toNat = s.toNat * 2 ^ 31 + n := by
    rw [BitVec.toNat_or, BitVec.toNat_ofNat, Nat.mod_eq_of_lt (by omega)]
    have : (f32SignBit s).toNat = 2 ^ 31 * s.toNat := by cases s <;> decide
    rw [this, ← Nat.two_pow_add_eq_or_of_lt hn]
    ring
  refine ⟨?_, ?_, ?_⟩
  · rw [f32Sign, BitVec.getLsbD, hto, Nat.testBit_eq_decide_div_mod_eq]
    cases s <;> simp <;> omega
  · rw [f32Exp, BitVec.extractLsb'_toNat, hto, Nat.shiftRight_eq_div_pow]
    cases s <;> simp <;> omega
  · rw [f32Frac, BitVec.extractLsb'_toNat, hto, Nat.shiftRight_eq_div_pow]
    cases s <;> simp
    omega

/-- The tie below the first value past the float32 range: at shift 253 the significand reaches `2^24` exactly from
`2^24 - 1/2` on. -/
theorem rhe_top {num d : Nat} (hd : 0 < d) (V : Nat) (hV : 0 < V) :
    (2 ^ 24 : ℤ) ≤ rhe num (d * (2 * V)) ↔ 33554431 * V * d ≤ num := by
  have hd' : 0 < d * (2 * V) := by positivity
  have hn := rhe_near num hd'
  have hden : (0 : ℤ) < d * V := by exact_mod_cast Nat.mul_pos hd hV
  push_cast at hn
  generalize hE : (d : ℤ) * V = E at hden
  have hE2 : (d : ℤ) * (2 * V) = 2 * E := by rw [← hE]; ring
  have hcast : 33554431 * V * d ≤ num ↔ (33554431 : ℤ) * E ≤ num := by
    rw [← hE, ← Nat.cast_le (α := ℤ)]; push_cast
    constructor <;> intro h <;> linarith
  have htie := (rhe_nearest num (2 ^ 24) hd').2
  push_cast at htie
  rw [hE2] at hn htie
  rw [hcast]
  generalize rhe num (d * (2 * V)) = r at hn htie ⊢
  constructor
  · intro h; nlinarith [hn.2]
  · intro h
    by_contra hlt
    have hr : r = 2 ^ 24 - 1 := by
      have : r ≤ 2 ^ 24 - 1 := by omega
      by_contra hne
      have : r ≤ 2 ^ 24 - 2 := by omega
      nlinarith [hn.1]
    subst hr
    have hnum : (num : ℤ) = 33554431 * E := by linarith [hn.1]
    rw [hnum, show (33554431 : ℤ) * E - (2 ^ 24 - 1) * (2 * E) = E by ring,
      show (33554431 : ℤ) * E - 16777216 * (2 * E) = -E by ring, abs_neg] at htie
    exact absurd (htie rfl (by norm_num)) (by norm_num)

/-- `f32RoundBits` reaches the infinity pattern exactly from `2^128 - 2^103` on, in units of `2^-149`. -/
theorem f32RoundBits_overflow (num : Nat) {den : Nat} (hd : 0 < den) :
    0x7F800000 ≤ f32RoundBits num den ↔ 33554431 * 2 ^ 252 * den ≤ num := by
  obtain ⟨hhi, hlo⟩ := roundShift_spec num hd
  unfold f32RoundBits
  simp only
  generalize Nat.log2 (num / den) - 23 = shift at hhi hlo ⊢
  have hu : 0 < 2 ^ shift := Nat.two_pow_pos shift
  have hd' : 0 < den * 2 ^ shift := Nat.mul_pos hd hu
  have hr0 : 0 ≤ rhe num (den * 2 ^ shift) := rhe_nonneg hd' (by positivity)
  obtain ⟨sig, hsig⟩ := Int.eq_ofNat_of_zero_le hr0
  have hsig24 : sig ≤ 2 ^ 24 := by
    have : rhe num (den * 2 ^ shift) ≤ (2 ^ 24 : ℤ) := rhe_le hd' (by
      have : (num : ℤ) ≤ 2 ^ 24 * 2 ^ shift * den := by exact_mod_cast hhi.le
      push_cast; linarith)
    rw [hsig] at this; exact_mod_cast this
  have htop := rhe_top (num := num) hd (2 ^ 252) (by positivity)
  generalize hV : 2 ^ 252 = V at htop ⊢
  have h253 : 2 ^ 253 = 2 * V := by rw [← hV]; norm_num
  have h254 : 2 ^ 254 = 4 * V := by rw [← hV]; norm_num
  rw [hsig, Int.toNat_natCast]
  obtain h | h | h : shift ≤ 252 ∨ shift = 253 ∨ 254 ≤ shift := by omega
  · have h1 : 2 ^ shift ≤ V := hV ▸ Nat.pow_le_pow_right (by norm_num) h
    have h2 : 2 ^ 24 * 2 ^ shift * den ≤ 2 ^ 24 * V * den :=
      Nat.mul_le_mul_right _ (Nat.mul_le_mul_left _ h1)
    have h3 : 2 ^ 24 * V * den ≤ 33554431 * V * den :=
      Nat.mul_le_mul_right _ (Nat.mul_le_mul_right _ (by norm_num))
    exact ⟨fun _ => by omega, fun _ => by omega⟩
  · rw [h, h253] at hsig
    rw [hsig] at htop
    rw [← htop, h]
    exact ⟨fun _ => by omega, fun _ => by omega⟩
  · have h1 : 4 * V ≤ 2 ^ shift := h254 ▸ Nat.pow_le_pow_right (by norm_num) h
    have h0 := hlo.resolve_left (by omega)
    have h2 : 2 ^ 23 * (4 * V) * den ≤ 2 ^ 23 * 2 ^ shift * den :=
      Nat.mul_le_mul_right _ (Nat.mul_le_mul_left _ h1)
    have h3 : 33554431 * V * den ≤ 2 ^ 23 * (4 * V) * den :=
      Nat.mul_le_mul_right _ (by omega)
    have h4 : (2 ^ 23 : ℤ) ≤ rhe num (den * 2 ^ shift) := le_rhe hd' (by
      have : (2 : ℤ) ^ 23 * 2 ^ shift * den ≤ num := by exact_mod_cast h0
      push_cast; linarith)
    rw [hsig] at h4
    exact ⟨fun _ => by omega, fun _ => by omega⟩

end Sys2Proof.Machine

namespace Sys2Proof.Exact

open Sys2Proof.Machine

/-- The magnitude of a pattern is that of its low 31 bits. -/
theorem f32Mag_eq_gridMag (w : Word) : f32Mag (f32Exp w) (f32Frac w) = gridMag (w.toNat % 2 ^ 31) := by
  have h := toNat_eq_fields w
  have he := f32Exp_lt w
  have hf := f32Frac_lt w
  generalize f32Exp w = e at h he ⊢
  generalize f32Frac w = f at h hf ⊢
  have hw : w.toNat % 2 ^ 31 = e * 2 ^ 23 + f := by
    cases hs : f32Sign w <;> rw [hs] at h <;> simp at h <;> omega
  have h1 : (e * 2 ^ 23 + f) / 2 ^ 23 = e := by omega
  have h2 : (e * 2 ^ 23 + f) % 2 ^ 23 = f := by omega
  rw [gridMag, hw, h1, h2]

/-- The distance between an exact number `(-1)^neg * num / den` and a finite pattern, both in units of `2^-149`. -/
theorem abs_sub_f32Rat (neg : Bool) (num : Nat) {den : Nat} (hd : 0 < den) (w : Word) :
    |(if neg then -1 else 1) * ((num : ℚ) / den * 2 ^ (-149 : ℤ)) - f32Rat w| =
      ((if f32Sign w = neg then |(num : ℤ) - gridMag (w.toNat % 2 ^ 31) * den|
        else (num : ℤ) + gridMag (w.toNat % 2 ^ 31) * den : ℤ) : ℚ) * (2 ^ (-149 : ℤ) / den) := by
  have hg := f32Mag_eq_gridMag w
  have hden : (den : ℚ) ≠ 0 := by exact_mod_cast hd.ne'
  have hc : (0 : ℚ) < 2 ^ (-149 : ℤ) / den := by positivity
  rw [f32Rat_eq_mag, hg]
  generalize gridMag (w.toNat % 2 ^ 31) = m
  have hr : ∀ σ τ : ℚ, σ * ((num : ℚ) / den * 2 ^ (-149 : ℤ)) - τ * ((m : ℚ) * 2 ^ (-149 : ℤ)) =
      (σ * num - τ * (m * den)) * (2 ^ (-149 : ℤ) / den) := by
    intro σ τ; field_simp
  rw [hr, abs_mul, abs_of_pos hc]
  congr 1
  cases neg <;> cases f32Sign w <;> simp
  · positivity
  · rw [show -(num : ℚ) - m * den = -(num + m * den) by ring, abs_neg, abs_of_nonneg (by positivity)]
  · rw [show -(num : ℚ) + m * den = -(num - m * den) by ring, abs_neg]

/-- From the grid of one sign to all patterns: a pattern of the other sign is no nearer than zero. -/
theorem nearest_of_grid {num den q g p : Nat} {c x y : ℚ} {P : Prop} [Decidable P] (hd : 0 < den) (hc : 0 < c)
    (hnear : |(num : ℤ) - q * den| ≤ |(num : ℤ) - g * den|)
    (htie : |(num : ℤ) - q * den| = |(num : ℤ) - g * den| → g ≠ q → p = 0)
    (hnear0 : |(num : ℤ) - q * den| ≤ |(num : ℤ) - (0 : ℕ) * den|)
    (htie0 : |(num : ℤ) - q * den| = |(num : ℤ) - (0 : ℕ) * den| → 0 ≠ q → p = 0)
    (hsame : P → g = q → x = y) (hzero : g = 0 → 0 = q → x = y) :
    (|(num : ℤ) - q * den| : ℤ) * c ≤ ((if P then |(num : ℤ) - g * den| else (num : ℤ) + g * den : ℤ) : ℚ) * c ∧
      ((|(num : ℤ) - q * den| : ℤ) * c = ((if P then |(num : ℤ) - g * den| else (num : ℤ) + g * den : ℤ) : ℚ) * c →
        x ≠ y → p = 0) := by
  simp only [Nat.cast_zero, zero_mul, sub_zero, Nat.abs_cast] at hnear0 htie0
  by_cases h : P
  · simp only [if_pos h]
    refine ⟨mul_le_mul_of_nonneg_right (Int.cast_le.2 hnear) hc.le, fun heq hne => ?_⟩
    exact htie (Int.cast_injective (mul_right_cancel₀ hc.ne' heq)) fun hg => hne (hsame h hg)
  · simp only [if_neg h]
    have hg : (0 : ℤ) ≤ g * den := by positivity
    refine ⟨mul_le_mul_of_nonneg_right (Int.cast_le.2 (by linarith)) hc.le, fun heq hne => ?_⟩
    have heq' : |(num : ℤ) - q * den| = num + g * den := Int.cast_injective (mul_right_cancel₀ hc.ne' heq)
    have hg0 : g = 0 := by
      have h0 : (g : ℤ) * den = 0 := by linarith
      have hdz : (den : ℤ) ≠ 0 := by exact_mod_cast hd.ne'
      exact_mod_cast (mul_eq_zero.1 h0).resolve_right hdz
    subst hg0
    exact htie0 (by simpa using heq') fun h0 => hne (hzero rfl h0)

/-- ROUNDING. `f32Round` meets the IEEE-754 relation of R204, for the sign given and the exact number `num / den` in units of
`2^-149`. -/
theorem f32Round_roundsTo (neg : Bool) (num : Nat) {den : Nat} (hd : 0 < den) :
    RoundsTo ((if neg then -1 else 1) * ((num : ℚ) / den * 2 ^ (-149 : ℤ))) neg (f32Round neg num den) := by
  have hmin : min (f32RoundBits num den) 0x7F800000 < 2 ^ 31 := by omega
  obtain ⟨hs, he, hf⟩ := fields_of_sign_or neg hmin
  have hden : (0 : ℚ) < den := by exact_mod_cast hd
  have habs : |(if neg then -1 else 1) * ((num : ℚ) / den * 2 ^ (-149 : ℤ))| = (num : ℚ) / den * 2 ^ (-149 : ℤ) := by
    rw [abs_mul, abs_of_nonneg (a := (num : ℚ) / den * 2 ^ (-149 : ℤ)) (by positivity)]
    cases neg <;> simp
  have hthr : (2 : ℚ) ^ 128 - 2 ^ 103 ≤ (num : ℚ) / den * 2 ^ (-149 : ℤ) ↔ 0x7F800000 ≤ f32RoundBits num den := by
    rw [f32RoundBits_overflow num hd]
    have hr : (num : ℚ) / den * 2 ^ (-149 : ℤ) = (num : ℚ) / (den * 2 ^ 149) := by
      rw [zpow_neg]; field_simp
    rw [hr, le_div_iff₀ (by positivity)]
    have hl : ((2 : ℚ) ^ 128 - 2 ^ 103) * (den * 2 ^ 149) = ((33554431 * 2 ^ 252 * den : ℕ) : ℚ) := by
      push_cast; ring
    rw [hl]
    exact Nat.cast_le
  refine ⟨hs, ?_⟩
  rw [habs]
  by_cases hov : 0x7F800000 ≤ f32RoundBits num den
  · rw [if_pos (hthr.2 hov), isInf32_iff]
    unfold f32Round
    rw [he, hf, min_eq_right hov]
    norm_num
  · rw [if_neg (fun h => hov (hthr.1 h))]
    have hlt : f32RoundBits num den < 0x7F800000 := by omega
    have hmin' : min (f32RoundBits num den) 0x7F800000 = f32RoundBits num den := min_eq_left hlt.le
    rw [hmin'] at hs he hf
    unfold f32Round
    rw [hmin']
    generalize hz : f32SignBit neg ||| BitVec.ofNat 32 (f32RoundBits num den) = z at hs he hf ⊢
    have hznat := toNat_eq_fields z
    have hzgrid : z.toNat % 2 ^ 31 = f32RoundBits num den := by
      rw [hznat, he, hf]; cases f32Sign z <;> simp <;> omega
    have hzlsb : z.getLsbD 0 = false ↔ f32RoundBits num den % 2 = 0 := by
      rw [BitVec.getLsbD, Nat.testBit_eq_decide_div_mod_eq, hznat, he, hf]
      cases f32Sign z <;> simp <;> omega
    refine ⟨by rw [Finite32, he]; omega, fun w _ => ?_⟩
    have hc : (0 : ℚ) < 2 ^ (-149 : ℤ) / den := by positivity
    rw [abs_sub_f32Rat neg num hd z, abs_sub_f32Rat neg num hd w, hs, if_pos rfl, hzgrid, hzlsb]
    have hval : ∀ x : Word, f32Sign x = neg → gridMag (x.toNat % 2 ^ 31) = gridMag (f32RoundBits num den) →
        f32Rat x = f32Rat z := by
      intro x hx hg
      rw [f32Rat_eq_mag, f32Rat_eq_mag, f32Mag_eq_gridMag, f32Mag_eq_gridMag, hx, hs, hg, hzgrid]
    have hval' : gridMag (w.toNat % 2 ^ 31) = 0 → 0 = gridMag (f32RoundBits num den) → f32Rat w = f32Rat z := by
      intro h1 h2
      have hx1 := abs_f32Rat w
      have hx2 := abs_f32Rat z
      rw [f32Mag_eq_gridMag, h1] at hx1
      rw [f32Mag_eq_gridMag, hzgrid, ← h2] at hx2
      simp only [Nat.cast_zero, zero_mul, abs_eq_zero] at hx1 hx2
      rw [hx1, hx2]
    obtain ⟨hnear, htie⟩ := f32RoundBits_nearest num hd (w.toNat % 2 ^ 31)
    obtain ⟨hnear0, htie0⟩ := f32RoundBits_nearest num hd 0
    have hg0 : gridMag 0 = 0 := by decide
    rw [hg0] at hnear0 htie0
    replace hval := hval w
    generalize gridMag (w.toNat % 2 ^ 31) = g at hnear htie hval hval' ⊢
    generalize gridMag (f32RoundBits num den) = q at hnear htie hnear0 htie0 hval hval' ⊢
    generalize f32RoundBits num den % 2 = p at htie htie0 ⊢
    exact nearest_of_grid hd hc hnear htie hnear0 htie0 hval hval'

end Sys2Proof.Exact
end

