-- ==== Sys2Proof/Laws/Step.lean ====
section
/-! SUPPORT. What a step does, by what is in flight and what it decodes to. -/

namespace Sys2Proof.Machine

theorem step_nil {s : State} (h : s.inflight = []) : step s = .next s := by
  simp only [step, takeRequest_nil h]

/-- The step at a request is decided by what the request decodes to. -/
theorem step_cons {s : State} {q : Request} {rest : List Request} (h : s.inflight = q :: rest) :
    step s = match decode blockParams q with
      | .ok i    => exec i { s with inflight := rest }
      | .error e => illegalCommand e { s with inflight := rest } :=
  congrArg (fun t => (match t with
    | none => .next s
    | some (q, s') => match decode blockParams q with
      | .ok i => exec i s'
      | .error e => illegalCommand e s' : Host.Outcome State Fault Refusal)) (takeRequest_cons h)

@[simp] theorem withFetchWord_inflight (s : State) (nbits w : Nat) :
    (s.withFetchWord nbits w).inflight = tableRequest nbits w :: s.inflight := rfl
@[simp] theorem withFetchWord_responses (s : State) (nbits w : Nat) : (s.withFetchWord nbits w).responses = s.responses := rfl
@[simp] theorem withFetchWord_draws (s : State) (nbits w : Nat) : (s.withFetchWord nbits w).draws = s.draws := rfl

end Sys2Proof.Machine
end

