-- ==== Sys2Proof/Tests/Slice0.lean ====
section
/-! SUPPORT. Tests. Expected results are those of spec/95_test_vectors.md, or the words of spec/opcode_table.json; and, for every
statement that has hypotheses, a witness that meets them. -/

namespace Sys2Proof.Tests

open Sys2Proof.Machine Sys2Proof.Safety Sys2Proof.Exact

/-! ## Well-formedness -/

/-- ADD is ill formed when VALUE_OPS = 0 (R10), ENC is not. -/
theorem test_wellFormed_refuses_valueOp :
    wellFormed { blockParams with valueOps := false } (.addE4m3fn 0x40#32 0x44#32) = false ∧
    wellFormed { blockParams with valueOps := false } (.encE4m3fn 0x40000000#32) = true ∧
    wellFormed blockParams (.addE4m3fn 0x40#32 0x44#32) = true := by decide

/-! ## Decoding: every row of spec/opcode_table.json, its 32 bits written out -/

theorem test_decode_enc (a b : Word) :
    decode blockParams ⟨0b00000000000000000000000000000000#32, a, b⟩ = .ok (.encE5m2 a) ∧
    decode blockParams ⟨0b00000000000000000000000000010000#32, a, b⟩ = .ok (.encE4m3fn a) ∧
    decode blockParams ⟨0b00000000000000000000000000100000#32, a, b⟩ = .ok (.encE8m0 a) ∧
    decode blockParams ⟨0b00000000000000000000000000110000#32, a, b⟩ = .ok (.encBf16 a) ∧
    decode blockParams ⟨0b00000000000000000000000001000000#32, a, b⟩ = .ok (.encE2m3fn a) ∧
    decode blockParams ⟨0b00000000000000000000000001010000#32, a, b⟩ = .ok (.encE3m2fn a) ∧
    decode blockParams ⟨0b00000000000000000000000001100000#32, a, b⟩ = .ok (.encE2m1fn a) := by
  refine ⟨?_, ?_, ?_, ?_, ?_, ?_, ?_⟩ <;> rfl

theorem test_decode_dec (a b : Word) :
    decode blockParams ⟨0b00000000000000000000000000000001#32, a, b⟩ = .ok (.decE5m2 a) ∧
    decode blockParams ⟨0b00000000000000000000000000010001#32, a, b⟩ = .ok (.decE4m3fn a) ∧
    decode blockParams ⟨0b00000000000000000000000000100001#32, a, b⟩ = .ok (.decE8m0 a) ∧
    decode blockParams ⟨0b00000000000000000000000000110001#32, a, b⟩ = .ok (.decBf16 a) ∧
    decode blockParams ⟨0b00000000000000000000000001000001#32, a, b⟩ = .ok (.decE2m3fn a) ∧
    decode blockParams ⟨0b00000000000000000000000001010001#32, a, b⟩ = .ok (.decE3m2fn a) ∧
    decode blockParams ⟨0b00000000000000000000000001100001#32, a, b⟩ = .ok (.decE2m1fn a) := by
  refine ⟨?_, ?_, ?_, ?_, ?_, ?_, ?_⟩ <;> rfl

theorem test_decode_neg (a b : Word) :
    decode blockParams ⟨0b00000000000000000000000000000010#32, a, b⟩ = .ok (.negE5m2 a) ∧
    decode blockParams ⟨0b00000000000000000000000000010010#32, a, b⟩ = .ok (.negE4m3fn a) ∧
    decode blockParams ⟨0b00000000000000000000000000110010#32, a, b⟩ = .ok (.negBf16 a) ∧
    decode blockParams ⟨0b00000000000000000000000001000010#32, a, b⟩ = .ok (.negE2m3fn a) ∧
    decode blockParams ⟨0b00000000000000000000000001010010#32, a, b⟩ = .ok (.negE3m2fn a) ∧
    decode blockParams ⟨0b00000000000000000000000001100010#32, a, b⟩ = .ok (.negE2m1fn a) := by
  refine ⟨?_, ?_, ?_, ?_, ?_, ?_⟩ <;> rfl

theorem test_decode_isnz (a b : Word) :
    decode blockParams ⟨0b00000000000000000000000000000011#32, a, b⟩ = .ok (.isnzE5m2 a) ∧
    decode blockParams ⟨0b00000000000000000000000000010011#32, a, b⟩ = .ok (.isnzE4m3fn a) ∧
    decode blockParams ⟨0b00000000000000000000000000100011#32, a, b⟩ = .ok (.isnzE8m0 a) ∧
    decode blockParams ⟨0b00000000000000000000000000110011#32, a, b⟩ = .ok (.isnzBf16 a) ∧
    decode blockParams ⟨0b00000000000000000000000001000011#32, a, b⟩ = .ok (.isnzE2m3fn a) ∧
    decode blockParams ⟨0b00000000000000000000000001010011#32, a, b⟩ = .ok (.isnzE3m2fn a) ∧
    decode blockParams ⟨0b00000000000000000000000001100011#32, a, b⟩ = .ok (.isnzE2m1fn a) := by
  refine ⟨?_, ?_, ?_, ?_, ?_, ?_, ?_⟩ <;> rfl

theorem test_decode_add (a b : Word) :
    decode blockParams ⟨0b00000000000000000000000000000100#32, a, b⟩ = .ok (.addE5m2 a b) ∧
    decode blockParams ⟨0b00000000000000000000000000010100#32, a, b⟩ = .ok (.addE4m3fn a b) ∧
    decode blockParams ⟨0b00000000000000000000000000100100#32, a, b⟩ = .ok (.addE8m0 a b) ∧
    decode blockParams ⟨0b00000000000000000000000000110100#32, a, b⟩ = .ok (.addBf16 a b) ∧
    decode blockParams ⟨0b00000000000000000000000001000100#32, a, b⟩ = .ok (.addE2m3fn a b) ∧
    decode blockParams ⟨0b00000000000000000000000001010100#32, a, b⟩ = .ok (.addE3m2fn a b) ∧
    decode blockParams ⟨0b00000000000000000000000001100100#32, a, b⟩ = .ok (.addE2m1fn a b) := by
  refine ⟨?_, ?_, ?_, ?_, ?_, ?_, ?_⟩ <;> rfl

theorem test_decode_sub (a b : Word) :
    decode blockParams ⟨0b00000000000000000000000000000101#32, a, b⟩ = .ok (.subE5m2 a b) ∧
    decode blockParams ⟨0b00000000000000000000000000010101#32, a, b⟩ = .ok (.subE4m3fn a b) ∧
    decode blockParams ⟨0b00000000000000000000000000100101#32, a, b⟩ = .ok (.subE8m0 a b) ∧
    decode blockParams ⟨0b00000000000000000000000000110101#32, a, b⟩ = .ok (.subBf16 a b) ∧
    decode blockParams ⟨0b00000000000000000000000001000101#32, a, b⟩ = .ok (.subE2m3fn a b) ∧
    decode blockParams ⟨0b00000000000000000000000001010101#32, a, b⟩ = .ok (.subE3m2fn a b) ∧
    decode blockParams ⟨0b00000000000000000000000001100101#32, a, b⟩ = .ok (.subE2m1fn a b) := by
  refine ⟨?_, ?_, ?_, ?_, ?_, ?_, ?_⟩ <;> rfl

theorem test_decode_mul (a b : Word) :
    decode blockParams ⟨0b00000000000000000000000000000110#32, a, b⟩ = .ok (.mulE5m2 a b) ∧
    decode blockParams ⟨0b00000000000000000000000000010110#32, a, b⟩ = .ok (.mulE4m3fn a b) ∧
    decode blockParams ⟨0b00000000000000000000000000100110#32, a, b⟩ = .ok (.mulE8m0 a b) ∧
    decode blockParams ⟨0b00000000000000000000000000110110#32, a, b⟩ = .ok (.mulBf16 a b) ∧
    decode blockParams ⟨0b00000000000000000000000001000110#32, a, b⟩ = .ok (.mulE2m3fn a b) ∧
    decode blockParams ⟨0b00000000000000000000000001010110#32, a, b⟩ = .ok (.mulE3m2fn a b) ∧
    decode blockParams ⟨0b00000000000000000000000001100110#32, a, b⟩ = .ok (.mulE2m1fn a b) := by
  refine ⟨?_, ?_, ?_, ?_, ?_, ?_, ?_⟩ <;> rfl

theorem test_decode_div (a b : Word) :
    decode blockParams ⟨0b00000000000000000000000000000111#32, a, b⟩ = .ok (.divE5m2 a b) ∧
    decode blockParams ⟨0b00000000000000000000000000010111#32, a, b⟩ = .ok (.divE4m3fn a b) ∧
    decode blockParams ⟨0b00000000000000000000000000100111#32, a, b⟩ = .ok (.divE8m0 a b) ∧
    decode blockParams ⟨0b00000000000000000000000000110111#32, a, b⟩ = .ok (.divBf16 a b) ∧
    decode blockParams ⟨0b00000000000000000000000001000111#32, a, b⟩ = .ok (.divE2m3fn a b) ∧
    decode blockParams ⟨0b00000000000000000000000001010111#32, a, b⟩ = .ok (.divE3m2fn a b) ∧
    decode blockParams ⟨0b00000000000000000000000001100111#32, a, b⟩ = .ok (.divE2m1fn a b) := by
  refine ⟨?_, ?_, ?_, ?_, ?_, ?_, ?_⟩ <;> rfl

theorem test_decode_eq (a b : Word) :
    decode blockParams ⟨0b00000000000000000000000000001000#32, a, b⟩ = .ok (.eqE5m2 a b) ∧
    decode blockParams ⟨0b00000000000000000000000000011000#32, a, b⟩ = .ok (.eqE4m3fn a b) ∧
    decode blockParams ⟨0b00000000000000000000000000101000#32, a, b⟩ = .ok (.eqE8m0 a b) ∧
    decode blockParams ⟨0b00000000000000000000000000111000#32, a, b⟩ = .ok (.eqBf16 a b) ∧
    decode blockParams ⟨0b00000000000000000000000001001000#32, a, b⟩ = .ok (.eqE2m3fn a b) ∧
    decode blockParams ⟨0b00000000000000000000000001011000#32, a, b⟩ = .ok (.eqE3m2fn a b) ∧
    decode blockParams ⟨0b00000000000000000000000001101000#32, a, b⟩ = .ok (.eqE2m1fn a b) := by
  refine ⟨?_, ?_, ?_, ?_, ?_, ?_, ?_⟩ <;> rfl

theorem test_decode_ne (a b : Word) :
    decode blockParams ⟨0b00000000000000000000000000001001#32, a, b⟩ = .ok (.neE5m2 a b) ∧
    decode blockParams ⟨0b00000000000000000000000000011001#32, a, b⟩ = .ok (.neE4m3fn a b) ∧
    decode blockParams ⟨0b00000000000000000000000000101001#32, a, b⟩ = .ok (.neE8m0 a b) ∧
    decode blockParams ⟨0b00000000000000000000000000111001#32, a, b⟩ = .ok (.neBf16 a b) ∧
    decode blockParams ⟨0b00000000000000000000000001001001#32, a, b⟩ = .ok (.neE2m3fn a b) ∧
    decode blockParams ⟨0b00000000000000000000000001011001#32, a, b⟩ = .ok (.neE3m2fn a b) ∧
    decode blockParams ⟨0b00000000000000000000000001101001#32, a, b⟩ = .ok (.neE2m1fn a b) := by
  refine ⟨?_, ?_, ?_, ?_, ?_, ?_, ?_⟩ <;> rfl

theorem test_decode_lt (a b : Word) :
    decode blockParams ⟨0b00000000000000000000000000001010#32, a, b⟩ = .ok (.ltE5m2 a b) ∧
    decode blockParams ⟨0b00000000000000000000000000011010#32, a, b⟩ = .ok (.ltE4m3fn a b) ∧
    decode blockParams ⟨0b00000000000000000000000000101010#32, a, b⟩ = .ok (.ltE8m0 a b) ∧
    decode blockParams ⟨0b00000000000000000000000000111010#32, a, b⟩ = .ok (.ltBf16 a b) ∧
    decode blockParams ⟨0b00000000000000000000000001001010#32, a, b⟩ = .ok (.ltE2m3fn a b) ∧
    decode blockParams ⟨0b00000000000000000000000001011010#32, a, b⟩ = .ok (.ltE3m2fn a b) ∧
    decode blockParams ⟨0b00000000000000000000000001101010#32, a, b⟩ = .ok (.ltE2m1fn a b) := by
  refine ⟨?_, ?_, ?_, ?_, ?_, ?_, ?_⟩ <;> rfl

theorem test_decode_le (a b : Word) :
    decode blockParams ⟨0b00000000000000000000000000001011#32, a, b⟩ = .ok (.leE5m2 a b) ∧
    decode blockParams ⟨0b00000000000000000000000000011011#32, a, b⟩ = .ok (.leE4m3fn a b) ∧
    decode blockParams ⟨0b00000000000000000000000000101011#32, a, b⟩ = .ok (.leE8m0 a b) ∧
    decode blockParams ⟨0b00000000000000000000000000111011#32, a, b⟩ = .ok (.leBf16 a b) ∧
    decode blockParams ⟨0b00000000000000000000000001001011#32, a, b⟩ = .ok (.leE2m3fn a b) ∧
    decode blockParams ⟨0b00000000000000000000000001011011#32, a, b⟩ = .ok (.leE3m2fn a b) ∧
    decode blockParams ⟨0b00000000000000000000000001101011#32, a, b⟩ = .ok (.leE2m1fn a b) := by
  refine ⟨?_, ?_, ?_, ?_, ?_, ?_, ?_⟩ <;> rfl

theorem test_decode_gt (a b : Word) :
    decode blockParams ⟨0b00000000000000000000000000001100#32, a, b⟩ = .ok (.gtE5m2 a b) ∧
    decode blockParams ⟨0b00000000000000000000000000011100#32, a, b⟩ = .ok (.gtE4m3fn a b) ∧
    decode blockParams ⟨0b00000000000000000000000000101100#32, a, b⟩ = .ok (.gtE8m0 a b) ∧
    decode blockParams ⟨0b00000000000000000000000000111100#32, a, b⟩ = .ok (.gtBf16 a b) ∧
    decode blockParams ⟨0b00000000000000000000000001001100#32, a, b⟩ = .ok (.gtE2m3fn a b) ∧
    decode blockParams ⟨0b00000000000000000000000001011100#32, a, b⟩ = .ok (.gtE3m2fn a b) ∧
    decode blockParams ⟨0b00000000000000000000000001101100#32, a, b⟩ = .ok (.gtE2m1fn a b) := by
  refine ⟨?_, ?_, ?_, ?_, ?_, ?_, ?_⟩ <;> rfl

theorem test_decode_ge (a b : Word) :
    decode blockParams ⟨0b00000000000000000000000000001101#32, a, b⟩ = .ok (.geE5m2 a b) ∧
    decode blockParams ⟨0b00000000000000000000000000011101#32, a, b⟩ = .ok (.geE4m3fn a b) ∧
    decode blockParams ⟨0b00000000000000000000000000101101#32, a, b⟩ = .ok (.geE8m0 a b) ∧
    decode blockParams ⟨0b00000000000000000000000000111101#32, a, b⟩ = .ok (.geBf16 a b) ∧
    decode blockParams ⟨0b00000000000000000000000001001101#32, a, b⟩ = .ok (.geE2m3fn a b) ∧
    decode blockParams ⟨0b00000000000000000000000001011101#32, a, b⟩ = .ok (.geE3m2fn a b) ∧
    decode blockParams ⟨0b00000000000000000000000001101101#32, a, b⟩ = .ok (.geE2m1fn a b) := by
  refine ⟨?_, ?_, ?_, ?_, ?_, ?_, ?_⟩ <;> rfl

/-- The illegal words of 95_test_vectors.md section 2.6. -/
theorem test_decode_illegal (a b : Word) :
    decode blockParams ⟨0x00000070#32, a, b⟩ = .error .reservedFmt ∧
    decode blockParams ⟨0x0000000E#32, a, b⟩ = .error .reservedOp ∧
    decode blockParams ⟨0x0000001F#32, a, b⟩ = .error .reservedOp ∧
    decode blockParams ⟨0x00000181#32, a, b⟩ = .error .reservedBits ∧
    decode blockParams ⟨0x80000000#32, a, b⟩ = .error .reservedBits ∧
    decode blockParams ⟨0x00000022#32, a, b⟩ = .error .negE8m0 ∧
    decode { blockParams with valueOps := false } ⟨0x00000014#32, a, b⟩ = .error .valueOpsDisabled := by
  refine ⟨?_, ?_, ?_, ?_, ?_, ?_, ?_⟩ <;> rfl

/-! ## Answers: one command each, on the vectors of 95_test_vectors.md sections 2.1 to 2.5 -/

/-- What a command answers right after reset. -/
def answers (i : Instr) : List Response :=
  match exec i State.reset with
  | .next t => t.responses
  | .fault _ => []
  | .refused _ => []

theorem test_answers_enc :
    answers (.encE5m2 0x3FF00000#32) = [⟨0x40#32, false⟩] ∧
    answers (.encE4m3fn 0x43E80001#32) = [⟨0x7F#32, false⟩] ∧
    answers (.encE8m0 0x3FB504F4#32) = [⟨0x80#32, false⟩] ∧
    answers (.encBf16 0x7F800001#32) = [⟨0x7F80#32, false⟩] ∧
    answers (.encE2m3fn 0x3F7D70A4#32) = [⟨0x07#32, false⟩] ∧
    answers (.encE3m2fn 0x41F00000#32) = [⟨0x1F#32, false⟩] ∧
    answers (.encE2m1fn 0x3E800001#32) = [⟨0x1#32, false⟩] := by
  decide +kernel

theorem test_answers_dec :
    answers (.decE5m2 0x03#32) = [⟨0x38400000#32, false⟩] ∧
    answers (.decE4m3fn 0xFE#32) = [⟨0xC3E00000#32, false⟩] ∧
    answers (.decE8m0 0x00#32) = [⟨0x00400000#32, false⟩] ∧
    answers (.decBf16 0xABCD3F80#32) = [⟨0x3F800000#32, false⟩] ∧
    answers (.decE2m3fn 0xC8#32) = [⟨0x3F800000#32, false⟩] ∧
    answers (.decE3m2fn 0x1F#32) = [⟨0x41E00000#32, false⟩] ∧
    answers (.decE2m1fn 0xF2#32) = [⟨0x3F800000#32, false⟩] := by
  decide +kernel

theorem test_answers_neg :
    answers (.negE5m2 0x7D#32) = [⟨0xFD#32, false⟩] ∧
    answers (.negE4m3fn 0x00000138#32) = [⟨0xB8#32, false⟩] ∧
    answers (.negBf16 0xFFC1#32) = [⟨0x7FC1#32, false⟩] ∧
    answers (.negE2m3fn 0x1F#32) = [⟨0x3F#32, false⟩] ∧
    answers (.negE3m2fn 0x20#32) = [⟨0x00#32, false⟩] ∧
    answers (.negE2m1fn 0x7#32) = [⟨0xF#32, false⟩] := by
  decide +kernel

theorem test_answers_isnz :
    answers (.isnzE5m2 0x80#32) = [⟨0#32, false⟩] ∧
    answers (.isnzE4m3fn 0xFF#32) = [⟨1#32, false⟩] ∧
    answers (.isnzE8m0 0x00#32) = [⟨1#32, false⟩] ∧
    answers (.isnzBf16 0x0001#32) = [⟨1#32, false⟩] ∧
    answers (.isnzE2m3fn 0x20#32) = [⟨0#32, false⟩] ∧
    answers (.isnzE3m2fn 0x01#32) = [⟨1#32, false⟩] ∧
    answers (.isnzE2m1fn 0xF0#32) = [⟨0#32, false⟩] := by
  decide +kernel

theorem test_answers_add :
    answers (.addE5m2 0x80#32 0x80#32) = [⟨0x80#32, false⟩] ∧
    answers (.addE4m3fn 0xFFFFFF40#32 0x12345644#32) = [⟨0x4A#32, false⟩] ∧
    answers (.addE8m0 0x00#32 0x00#32) = [⟨0x01#32, false⟩] ∧
    answers (.addBf16 0x3F80#32 0x3B80#32) = [⟨0x3F80#32, false⟩] ∧
    answers (.addE2m3fn 0x1F#32 0x01#32) = [⟨0x1F#32, false⟩] ∧
    answers (.addE3m2fn 0x0C#32 0x0C#32) = [⟨0x10#32, false⟩] ∧
    answers (.addE2m1fn 0x1#32 0x2#32) = [⟨0x3#32, false⟩] := by
  decide +kernel

theorem test_answers_sub :
    answers (.subE5m2 0x80#32 0x00#32) = [⟨0x80#32, false⟩] ∧
    answers (.subE4m3fn 0x40#32 0x44#32) = [⟨0xB8#32, false⟩] ∧
    answers (.subE8m0 0x7F#32 0x80#32) = [⟨0xFF#32, false⟩] ∧
    answers (.subBf16 0x3F80#32 0x3B80#32) = [⟨0x3F7F#32, false⟩] ∧
    answers (.subE2m3fn 0x20#32 0x00#32) = [⟨0x20#32, false⟩] ∧
    answers (.subE2m1fn 0x8#32 0x0#32) = [⟨0x8#32, false⟩] := by
  decide +kernel

theorem test_answers_mul :
    answers (.mulE5m2 0x3C#32 0x80#32) = [⟨0x80#32, false⟩] ∧
    answers (.mulE4m3fn 0x40#32 0x44#32) = [⟨0x4C#32, false⟩] ∧
    answers (.mulE8m0 0xFE#32 0x00#32) = [⟨0x7F#32, false⟩] ∧
    answers (.mulBf16 0x7F7F#32 0x4000#32) = [⟨0x7F80#32, false⟩] ∧
    answers (.mulE2m3fn 0x1F#32 0x01#32) = [⟨0x07#32, false⟩] ∧
    answers (.mulE3m2fn 0x0E#32 0x0E#32) = [⟨0x10#32, false⟩] ∧
    answers (.mulE2m1fn 0x1#32 0x1#32) = [⟨0x0#32, false⟩] := by
  decide +kernel

theorem test_answers_div :
    answers (.divE5m2 0x3C#32 0x80#32) = [⟨0xFC#32, false⟩] ∧
    answers (.divE4m3fn 0x38#32 0x44#32) = [⟨0x2B#32, false⟩] ∧
    answers (.divE8m0 0xFE#32 0x00#32) = [⟨0xFE#32, false⟩] ∧
    answers (.divBf16 0x3F80#32 0x4040#32) = [⟨0x3EAA#32, false⟩] ∧
    answers (.divE2m3fn 0x08#32 0x00#32) = [⟨0x1F#32, false⟩] ∧
    answers (.divE3m2fn 0x0C#32 0x00#32) = [⟨0x1F#32, false⟩] ∧
    answers (.divE2m1fn 0x2#32 0x5#32) = [⟨0x1#32, false⟩] := by
  decide +kernel

theorem test_answers_eq :
    answers (.eqE5m2 0x80#32 0x00#32) = [⟨0#32, false⟩] ∧
    answers (.eqE4m3fn 0x7F#32 0xFF#32) = [⟨1#32, false⟩] ∧
    answers (.eqE8m0 0x00#32 0xFE#32) = [⟨0#32, false⟩] ∧
    answers (.eqBf16 0x0001#32 0x0000#32) = [⟨0#32, false⟩] ∧
    answers (.eqE2m3fn 0x3F#32 0x1F#32) = [⟨0#32, false⟩] ∧
    answers (.eqE3m2fn 0x1F#32 0x1F#32) = [⟨1#32, false⟩] ∧
    answers (.eqE2m1fn 0x9#32 0x1#32) = [⟨0#32, false⟩] := by
  decide +kernel

theorem test_answers_ne :
    answers (.neE5m2 0x80#32 0x00#32) = [⟨1#32, false⟩] ∧
    answers (.neE4m3fn 0x7F#32 0xFF#32) = [⟨0#32, false⟩] ∧
    answers (.neE8m0 0x00#32 0xFE#32) = [⟨1#32, false⟩] ∧
    answers (.neBf16 0x0001#32 0x0000#32) = [⟨1#32, false⟩] ∧
    answers (.neE2m3fn 0x3F#32 0x1F#32) = [⟨1#32, false⟩] ∧
    answers (.neE3m2fn 0x1F#32 0x1F#32) = [⟨0#32, false⟩] ∧
    answers (.neE2m1fn 0x9#32 0x1#32) = [⟨1#32, false⟩] := by
  decide +kernel

theorem test_answers_lt :
    answers (.ltE5m2 0x80#32 0x00#32) = [⟨0#32, false⟩] ∧
    answers (.ltE4m3fn 0x7F#32 0xFF#32) = [⟨0#32, false⟩] ∧
    answers (.ltE8m0 0x00#32 0xFE#32) = [⟨1#32, false⟩] ∧
    answers (.ltBf16 0x0001#32 0x0000#32) = [⟨0#32, false⟩] ∧
    answers (.ltE2m3fn 0x3F#32 0x1F#32) = [⟨1#32, false⟩] ∧
    answers (.ltE3m2fn 0x1F#32 0x1F#32) = [⟨0#32, false⟩] ∧
    answers (.ltE2m1fn 0x9#32 0x1#32) = [⟨1#32, false⟩] := by
  decide +kernel

theorem test_answers_le :
    answers (.leE5m2 0x80#32 0x00#32) = [⟨1#32, false⟩] ∧
    answers (.leE4m3fn 0x7F#32 0xFF#32) = [⟨0#32, false⟩] ∧
    answers (.leE8m0 0x00#32 0xFE#32) = [⟨1#32, false⟩] ∧
    answers (.leBf16 0x0001#32 0x0000#32) = [⟨0#32, false⟩] ∧
    answers (.leE2m3fn 0x3F#32 0x1F#32) = [⟨1#32, false⟩] ∧
    answers (.leE3m2fn 0x1F#32 0x1F#32) = [⟨1#32, false⟩] ∧
    answers (.leE2m1fn 0x9#32 0x1#32) = [⟨1#32, false⟩] := by
  decide +kernel

theorem test_answers_gt :
    answers (.gtE5m2 0x80#32 0x00#32) = [⟨0#32, false⟩] ∧
    answers (.gtE4m3fn 0x7F#32 0xFF#32) = [⟨0#32, false⟩] ∧
    answers (.gtE8m0 0x00#32 0xFE#32) = [⟨0#32, false⟩] ∧
    answers (.gtBf16 0x0001#32 0x0000#32) = [⟨1#32, false⟩] ∧
    answers (.gtE2m3fn 0x3F#32 0x1F#32) = [⟨0#32, false⟩] ∧
    answers (.gtE3m2fn 0x1F#32 0x1F#32) = [⟨0#32, false⟩] ∧
    answers (.gtE2m1fn 0x9#32 0x1#32) = [⟨0#32, false⟩] := by
  decide +kernel

theorem test_answers_ge :
    answers (.geE5m2 0x80#32 0x00#32) = [⟨1#32, false⟩] ∧
    answers (.geE4m3fn 0x7F#32 0xFF#32) = [⟨0#32, false⟩] ∧
    answers (.geE8m0 0x00#32 0xFE#32) = [⟨0#32, false⟩] ∧
    answers (.geBf16 0x0001#32 0x0000#32) = [⟨1#32, false⟩] ∧
    answers (.geE2m3fn 0x3F#32 0x1F#32) = [⟨0#32, false⟩] ∧
    answers (.geE3m2fn 0x1F#32 0x1F#32) = [⟨1#32, false⟩] ∧
    answers (.geE2m1fn 0x9#32 0x1#32) = [⟨0#32, false⟩] := by
  decide +kernel

/-! ## Steps -/

/-- The state after one step with one request in flight. -/
def afterStep (q : Request) : Option State :=
  match step (issue q State.reset) with
  | .next t => some t
  | .fault _ => none
  | .refused _ => none

/-- 95_test_vectors.md section 2.6: NEG.e8m0 is answered with `r = 0`, `err = 1`. -/
theorem test_step_illegal : afterStep ⟨0x22#32, 0x7F#32, 0#32⟩ = some ⟨[], [⟨0#32, true⟩], 0⟩ := by decide

/-- 95_test_vectors.md section 2.6: ENC.bf16 ignores `b`. -/
theorem test_step_ignores_b : afterStep ⟨0x30#32, 0x3F800000#32, 0xDEADBEEF#32⟩ = some ⟨[], [⟨0x3F80#32, false⟩], 0⟩ := by decide

/-- R205: `+Inf + -Inf` uses up a draw, one response is given, and nothing stops. -/
theorem test_step_draws : (afterStep ⟨0x04#32, 0x7C#32, 0xFC#32⟩).map (fun t => (t.draws, t.responses.length)) = some (1, 1) := by
  decide

/-- The host's placement of a word: ADD.e4m3fn with zero operands is the next command served. -/
theorem test_withFetchWord : decodeTableWord 32 0x14 = some (.addE4m3fn 0#32 0#32) ∧
    step (State.reset.withFetchWord 32 0x14) = .next ⟨[], [⟨0#32, false⟩], 0⟩ := by
  constructor <;> rfl

/-! ## Witnesses: for every statement with hypotheses, values that meet them -/

/-- An illegal request, two legal ones, and a state with all three in flight. -/
def illegalRequest : Request := ⟨0x22#32, 0x7F#32, 0#32⟩
def encRequest : Request := ⟨0x10#32, 0x40000000#32, 0#32⟩
def addRequest : Request := ⟨0x04#32, 0x7C#32, 0xFC#32⟩
def busy : State := ⟨[encRequest, illegalRequest, addRequest], [⟨0#32, true⟩], 5⟩

/-- FirstRequestAfterResetIsServed, StepRunsTheDecodedCommand, IllegalCommandIsAnsweredWithError, EncodeOfDecode. -/
theorem witness_decode : decode blockParams encRequest = .ok (.encE4m3fn 0x40000000#32) ∧
    decode blockParams illegalRequest = .error .negE8m0 ∧ illegalWord blockParams illegalRequest.cmd = true ∧
    busy.inflight = encRequest :: [illegalRequest, addRequest] ∧ State.reset.inflight = [] := by decide

/-- IllegalCommandIsAnsweredWithError, at the edges of each condition of R76: bit 7, bit 31, op 14, op 15, fmt 7, NEG.e8m0; and
the legal words next to them. -/
theorem witness_illegal_edges :
    ([0x80, 0x80000000, 0x0E, 0x0F, 0x70, 0x7D, 0x22].map fun w => illegalWord blockParams (BitVec.ofNat 32 w)) =
      [true, true, true, true, true, true, true] ∧
    ([0x00, 0x0D, 0x6D, 0x60, 0x12, 0x32, 0x21, 0x23].map fun w => illegalWord blockParams (BitVec.ofNat 32 w)) =
      [false, false, false, false, false, false, false, false] ∧
    ([0x01, 0x02, 0x0D].map fun w => illegalWord { blockParams with valueOps := false } (BitVec.ofNat 32 w)) =
      [false, true, true] := by decide

/-- DecodeOfEncode. -/
theorem witness_wellFormed : wellFormed blockParams (.mulBf16 0xFFFFFFFF#32 1#32) = true := by decide

/-- UnusedOperandIsIgnored, ResponseIsAFunctionOfTheRequest. -/
theorem witness_unary : decode blockParams ⟨0x03#32, 0x80#32, 7#32⟩ = .ok (.isnzE5m2 0x80#32) ∧
    isUnary (Instr.isnzE5m2 0x80#32).op = true ∧ isArith (Instr.isnzE5m2 0x80#32).op = false := by decide

/-- UnusedHighBitsOfCodesAreIgnored: two requests that differ in the bits above the format's width only. -/
theorem witness_highBits : decode blockParams ⟨0x64#32, 0xF7#32, 0x17#32⟩ = .ok (.addE2m1fn 0xF7#32 0x17#32) ∧
    (0x07#32 : Word) &&& wmask .e2m1fn = 0xF7#32 &&& wmask .e2m1fn ∧
    (0xFFFFFFF7#32 : Word) &&& wmask .e2m1fn = 0x17#32 &&& wmask .e2m1fn ∧ (Instr.addE2m1fn 0xF7#32 0x17#32).op ≠ .enc := by
  decide

/-- CodeResultsAreZeroExtended, BooleanResultsAreZeroOrOne. -/
theorem witness_results : givesCode (Instr.encE2m1fn 0#32).op = true ∧ givesBool (Instr.geE2m1fn 7#32 7#32).op = true := by decide

/-- CommandsChangeOnlyResponsesAndDraws: a next state of a command that uses up a draw. -/
theorem witness_exec_next : ∃ t, exec (.addE5m2 0x7C#32 0xFC#32) busy = .next t ∧ t.draws = busy.draws + 1 :=
  ⟨_, rfl, rfl⟩

/-- StepKeepsErrorsCarryZero: a busy state, with an error response, that meets the invariant, and its step. -/
theorem witness_invariant : ErrorsCarryZero busy ∧ ∃ t, step busy = .next t := by
  constructor
  · intro resp h _
    simp only [busy, List.mem_singleton] at h
    simp [h]
  · exact ⟨_, rfl⟩

/-- RunFaultsExactlyOnIllegalCommands: a run that answers one legal and one illegal request. -/
theorem witness_run : ∃ t, core.run 2 ⟨[encRequest, illegalRequest], [], 0⟩ = .next t ∧
    t.responses = [⟨0x40#32, false⟩, ⟨0#32, true⟩] := ⟨_, rfl, by decide +kernel⟩

/-- RheIsExactRoundHalfToEven, with a tie and a negative argument. -/
theorem witness_rhe : (0 : ℕ) < 2 ∧ rhe 5 2 = 2 ∧ rhe 7 2 = 4 ∧ rhe (-5) 2 = -2 ∧ rhe (-3) 2 = -2 := by decide

/-- The fields of a literal pattern decide its exact value. -/
theorem f32Rat_of_fields {w : Word} {s : Bool} {e m : ℕ} (hs : f32Sign w = s) (he : f32Exp w = e) (hm : f32Frac w = m) :
    f32Rat w = (if s then -1 else 1) *
      (if e = 0 then 2 ^ (-149 : ℤ) * (m : ℚ) else 2 ^ ((e : ℤ) - 127) * (1 + (m : ℚ) / 2 ^ 23)) := by
  subst hs he hm
  rfl

theorem one_rat : f32Rat 0x3F800000#32 = 1 := by
  rw [f32Rat_of_fields (s := false) (e := 127) (m := 0) (by decide) (by decide) (by decide)]
  norm_num

/-- EncE8m0RoundsAtSqrtTwo: NaN, infinity, negative, zero, and a positive value `1 = 1/2 * 2^1` of the threshold clauses, one
below the threshold (1/2) and one not below it (3/4). -/
theorem witness_e8m0 : isNaN32 0x7FC00000#32 = true ∧ isInf32 0xFF800000#32 = true ∧
    (Finite32 0xBF800000#32 ∧ f32Rat 0xBF800000#32 < 0) ∧ (Finite32 0x80000000#32 ∧ f32Rat 0x80000000#32 = 0) ∧
    (Finite32 0x3F800000#32 ∧ f32Rat 0x3F800000#32 = (1 / 2) * 2 ^ (1 : ℤ)) ∧
    (Finite32 0x3F400000#32 ∧ f32Rat 0x3F400000#32 = (3 / 4) * 2 ^ (0 : ℤ)) := by
  refine ⟨by decide, by decide, ⟨by decide, ?_⟩, ⟨by decide, ?_⟩, ⟨by decide, ?_⟩, by decide, ?_⟩
  · rw [f32Rat_of_fields (s := true) (e := 127) (m := 0) (by decide) (by decide) (by decide)]; norm_num
  · rw [f32Rat_of_fields (s := true) (e := 0) (m := 0) (by decide) (by decide) (by decide)]; norm_num
  · rw [one_rat]; norm_num
  · rw [f32Rat_of_fields (s := false) (e := 126) (m := 0x400000) (by decide) (by decide) (by decide)]; norm_num

/-- The two threshold clauses of EncE8m0RoundsAtSqrtTwo: `1/2 < sqrt 2 / 2 <= 3/4`. -/
theorem witness_e8m0_threshold : (((1 / 2 : ℚ)) : ℝ) < Real.sqrt 2 / 2 ∧ Real.sqrt 2 / 2 ≤ (((3 / 4 : ℚ)) : ℝ) := by
  have h : Real.sqrt 2 ^ 2 = 2 := Real.sq_sqrt (by norm_num)
  have h0 := Real.sqrt_nonneg 2
  constructor <;> push_cast <;> nlinarith

/-- EncE8m0RoundsAtSqrtTwo, beside the threshold and at the clamped ends: the two significands next to `sqrt 2 / 2` (R118), the
least float32, whose exponent is clamped to 0, and the greatest, whose exponent is clamped to 254. -/
theorem witness_e8m0_edges :
    (Finite32 0x3FB504F3#32 ∧ f32Rat 0x3FB504F3#32 = (0xB504F3 / 2 ^ 24) * 2 ^ (1 : ℤ)) ∧
    (Finite32 0x3FB504F4#32 ∧ f32Rat 0x3FB504F4#32 = (0xB504F4 / 2 ^ 24) * 2 ^ (1 : ℤ)) ∧
    (Finite32 0x00000001#32 ∧ f32Rat 0x00000001#32 = (1 / 2) * 2 ^ (-148 : ℤ)) ∧
    (Finite32 0x7F7FFFFF#32 ∧ f32Rat 0x7F7FFFFF#32 = (0xFFFFFF / 2 ^ 24) * 2 ^ (128 : ℤ)) ∧
    ((0xB504F3 / 2 ^ 24 : ℚ) : ℝ) < Real.sqrt 2 / 2 ∧ Real.sqrt 2 / 2 ≤ ((0xB504F4 / 2 ^ 24 : ℚ) : ℝ) := by
  have h : Real.sqrt 2 ^ 2 = 2 := Real.sq_sqrt (by norm_num)
  have h0 := Real.sqrt_nonneg 2
  refine ⟨⟨by decide, ?_⟩, ⟨by decide, ?_⟩, ⟨by decide, ?_⟩, ⟨by decide, ?_⟩, ?_, ?_⟩
  · rw [f32Rat_of_fields (s := false) (e := 127) (m := 0x3504F3) (by decide) (by decide) (by decide)]; norm_num
  · rw [f32Rat_of_fields (s := false) (e := 127) (m := 0x3504F4) (by decide) (by decide) (by decide)]; norm_num
  · rw [f32Rat_of_fields (s := false) (e := 0) (m := 1) (by decide) (by decide) (by decide)]; norm_num
  · rw [f32Rat_of_fields (s := false) (e := 254) (m := 0x7FFFFF) (by decide) (by decide) (by decide)]; norm_num
  · push_cast; nlinarith
  · push_cast; nlinarith

/-- EncE8m0BitForm: the edges of the exponent range and a subnormal. -/
theorem witness_e8m0_bits : f32Sign 0x00800000#32 = false ∧ f32Exp 0x00800000#32 = 1 ∧ f32Sign 0x7F7FFFFF#32 = false ∧
    f32Exp 0x7F7FFFFF#32 = 254 ∧ f32Sign 0x00000001#32 = false ∧ f32Exp 0x00000001#32 = 0 ∧ f32Frac 0x00000001#32 ≠ 0 := by
  decide

/-- EncInfinitiesAndNans, EncSignedZeros, EncSignSymmetry. -/
theorem witness_specials : f32Exp 0x7F800001#32 = 255 ∧ isStd .e2m1fn = true := by decide

/-- EncClampRanges, at the lower edge for float4_e2m1fn: 0.75. -/
theorem witness_clamp : isStd .e2m1fn = true ∧ Finite32 0x3F400000#32 ∧ InClampRange .e2m1fn |f32Rat 0x3F400000#32| := by
  refine ⟨rfl, by decide, ?_⟩
  rw [f32Rat_of_fields (s := false) (e := 126) (m := 0x400000) (by decide) (by decide) (by decide)]
  norm_num [InClampRange, formatSpec, stepExp, emin]

/-- EncOverflow, each clause at its edge: 61440, just above 464, 464, 7.5, 28 and 6. -/
theorem witness_overflow : (Finite32 0x47700000#32 ∧ 61440 ≤ |f32Rat 0x47700000#32|) ∧
    (Finite32 0x43E80001#32 ∧ 464 < |f32Rat 0x43E80001#32|) ∧ (Finite32 0x43E80000#32 ∧ |f32Rat 0x43E80000#32| = 464) ∧
    (Finite32 0x40F00000#32 ∧ 15 / 2 ≤ |f32Rat 0x40F00000#32|) ∧ (Finite32 0x41E00000#32 ∧ 28 ≤ |f32Rat 0x41E00000#32|) ∧
    (Finite32 0xC0C00000#32 ∧ 6 ≤ |f32Rat 0xC0C00000#32|) := by
  refine ⟨⟨by decide, ?_⟩, ⟨by decide, ?_⟩, ⟨by decide, ?_⟩, ⟨by decide, ?_⟩, ⟨by decide, ?_⟩, by decide, ?_⟩
  · rw [f32Rat_of_fields (s := false) (e := 142) (m := 0x700000) (by decide) (by decide) (by decide)]; norm_num
  · rw [f32Rat_of_fields (s := false) (e := 135) (m := 0x680001) (by decide) (by decide) (by decide)]; norm_num
  · rw [f32Rat_of_fields (s := false) (e := 135) (m := 0x680000) (by decide) (by decide) (by decide)]; norm_num
  · rw [f32Rat_of_fields (s := false) (e := 129) (m := 0x700000) (by decide) (by decide) (by decide)]; norm_num
  · rw [f32Rat_of_fields (s := false) (e := 131) (m := 0x600000) (by decide) (by decide) (by decide)]; norm_num
  · rw [f32Rat_of_fields (s := true) (e := 129) (m := 0x400000) (by decide) (by decide) (by decide)]; norm_num

/-- EncIsNearestOutsideTheClamp: 1.0 for float8_e4m3fn, and another code with a finite value. -/
theorem witness_nearest : isStd .e4m3fn = true ∧ Finite32 0x3F800000#32 ∧ |f32Rat 0x3F800000#32| ≤ maxFinite .e4m3fn ∧
    ¬ InClampRange .e4m3fn |f32Rat 0x3F800000#32| ∧ Finite32 (decOperand .e4m3fn 0x39#32) := by
  refine ⟨rfl, by decide, ?_, ?_, by decide⟩ <;> rw [one_rat]
  · norm_num [maxFinite]
  · norm_num [InClampRange, formatSpec, stepExp, emin]

/-- SignAndValueDetermineThePattern: equal patterns meet its hypotheses, and it separates +0 from -0 by the sign alone. -/
theorem witness_sameValue : Finite32 0#32 ∧ Finite32 0x80000000#32 ∧ f32Rat 0#32 = f32Rat 0x80000000#32 ∧
    f32Sign 0#32 ≠ f32Sign 0x80000000#32 := by
  refine ⟨by decide, by decide, ?_, by decide⟩
  rw [f32Rat_of_fields (s := false) (e := 0) (m := 0) (by decide) (by decide) (by decide),
    f32Rat_of_fields (s := true) (e := 0) (m := 0) (by decide) (by decide) (by decide)]
  norm_num

/-- DecE8m0GivesPowersOfTwo, FnDecodesOnlyTheSentinelToNan, CodecRoundTrip, DecSignSymmetry, DecIsMonotone. -/
theorem witness_dec : (0xFFFFFFFF#32 : Word) &&& 0xFF#32 = 0xFF#32 ∧ (0x100#32 : Word) &&& 0xFF#32 = 0x00#32 ∧
    (0x01#32 : Word) &&& 0xFF#32 ≠ 0xFF#32 ∧ (0xFE#32 : Word) &&& 0xFF#32 ≠ 0x00#32 ∧
    isNaN32 (decOperand .bf16 0x7F81#32) = true ∧ isNaN32 (decOperand .e5m2 0x7C#32) = false ∧
    (formatSpec .bf16).hasSign = true ∧ codeSign .e5m2 0x7B#32 = codeSign .e5m2 0x7C#32 ∧
    (0x7B#32 : Word) &&& wmask .e5m2 ≤ 0x7C#32 &&& wmask .e5m2 := by decide

/-- NegTwiceIsTheIdentity. -/
theorem witness_neg : commandOf .neg .e5m2 0x7D#32 0#32 = some (.negE5m2 0x7D#32) ∧
    commandOf .neg .e5m2 0xFD#32 0#32 = some (.negE5m2 0xFD#32) := by decide

/-- RoundingDeterminesThePattern: an overflow, and the exact zero. -/
theorem witness_rounds : RoundsTo (2 ^ 128) false 0x7F800000#32 ∧ RoundsTo 0 true 0x80000000#32 := by
  have hz : f32Rat 0x80000000#32 = 0 := by
    rw [f32Rat_of_fields (s := true) (e := 0) (m := 0) (by decide) (by decide) (by decide)]; norm_num
  refine ⟨⟨by decide, ?_⟩, by decide, ?_⟩
  · rw [if_pos (by rw [abs_of_nonneg (by positivity)]; norm_num)]
    decide
  · rw [if_neg (by norm_num)]
    refine ⟨by decide, fun w _ => ⟨?_, fun h hne => absurd ?_ hne⟩⟩
    · rw [hz]; simp
    · rw [hz] at h ⊢
      simp only [sub_zero, zero_sub, abs_neg, abs_zero] at h
      exact abs_eq_zero.1 h.symm

/-- NanResultCodes. -/
theorem witness_quietNan : (0xFFC00001#32 : Word).extractLsb' 22 9 = 0x1FF#9 := by decide

/-- WideningIsExact, NarrowingRoundsToNearestEven. -/
theorem witness_host : Finite32 0x00000001#32 ∧ isInf32 0x7F800000#32 = true ∧ isNaN32 0x7F800001#32 = true ∧
    f64Exp 0x3FF0000000000000#64 ≠ 2047 ∧ f64Exp 0x7FF0000000000000#64 = 2047 ∧ f64Frac 0x7FF0000000000000#64 = 0 ∧
    f64Exp 0x7FF0000000000001#64 = 2047 ∧ f64Frac 0x7FF0000000000001#64 ≠ 0 ∧ Format.e8m0 ≠ .bf16 := by decide

end Sys2Proof.Tests
end

section
/-! PROOFS. What a command answers, by its operation and its format: one meaning per operation, the result word as a function
of the operands and of the draw, and from it the response to a request (R20). -/

namespace Sys2Proof.Machine

open Sys2Proof.Safety

/-- The meaning of an operation in a format, through the common form of its commands. -/
def execOp (op : Op) (f : Format) (a b : Word) (s : State) : Host.Outcome State Fault Refusal :=
  match op with
  | .enc  => encCommand f a s
  | .dec  => decCommand f a s
  | .neg  => negCommand f a s
  | .isnz => isnzCommand f a s
  | .add  => arithCommand f f32Add a b s
  | .sub  => arithCommand f f32Sub a b s
  | .mul  => arithCommand f f32Mul a b s
  | .div  => arithCommand f f32Div a b s
  | .eq   => eqCommand f a b s
  | .ne   => neCommand f a b s
  | .lt   => orderedCommand f Ordering.isLT a b s
  | .le   => orderedCommand f Ordering.isLE a b s
  | .gt   => orderedCommand f Ordering.isGT a b s
  | .ge   => orderedCommand f Ordering.isGE a b s

/-- Every command is its operation's common form, on its own format and operands. -/
theorem exec_eq_execOp (i : Instr) (s : State) : exec i s = execOp i.op i.fmt i.opA i.opB s := by
  cases i <;> rfl

/-- The result word of an operation, or `none` when its float32 operation gives a NaN, whose pattern is the draw's (R205). -/
def resultWord (op : Op) (f : Format) (a b : Word) : Option Word :=
  match op with
  | .enc  => some (enc blockParams f a)
  | .dec  => some (decOperand f a)
  | .neg  => some (negCode f a)
  | .isnz => some (boolWord (codeNonzero f a))
  | .add  => (f32Add (decOperand f a) (decOperand f b)).map (enc blockParams f)
  | .sub  => (f32Sub (decOperand f a) (decOperand f b)).map (enc blockParams f)
  | .mul  => (f32Mul (decOperand f a) (decOperand f b)).map (enc blockParams f)
  | .div  => (f32Div (decOperand f a) (decOperand f b)).map (enc blockParams f)
  | .eq   => some (boolWord (codesEqual f a b))
  | .ne   => some (1#32 - boolWord (codesEqual f a b))
  | .lt   => some (boolWord (ordered f Ordering.isLT a b))
  | .le   => some (boolWord (ordered f Ordering.isLE a b))
  | .gt   => some (boolWord (ordered f Ordering.isGT a b))
  | .ge   => some (boolWord (ordered f Ordering.isGE a b))

/-- Only ADD, SUB, MUL and DIV can lack a result of their own. -/
theorem isArith_of_resultWord_eq_none {op : Op} {f : Format} {a b : Word} (h : resultWord op f a b = none) :
    isArith op = true := by
  cases op with
  | add | sub | mul | div => rfl
  | enc | dec | neg | isnz | eq | ne | lt | le | gt | ge => cases h

/-- The two answers of an operation: its result word, or the encoding of the draw, which is then used up. -/
def AnswersResult (f : Format) (result : Option Word) (s : State) (o : Host.Outcome State Fault Refusal) : Prop :=
  (∃ r, result = some r ∧ o = .next (answered r s)) ∨
    (result = none ∧ o = .next (answered (enc blockParams f (arithNan s)) (advanceDraw s)))

theorem arithCommand_answersResult (f : Format) (op : Word → Word → Option Word) (a b : Word) (s : State) :
    AnswersResult f ((op (decOperand f a) (decOperand f b)).map (enc blockParams f)) s (arithCommand f op a b s) := by
  obtain ⟨z, hz, hnext⟩ | ⟨hnan, hnext⟩ := arithCommand_next f op a b s
  · exact .inl ⟨_, congrArg _ hz, hnext⟩
  · exact .inr ⟨congrArg _ hnan, hnext⟩

theorem execOp_answersResult (op : Op) (f : Format) (a b : Word) (s : State) :
    AnswersResult f (resultWord op f a b) s (execOp op f a b s) := by
  cases op with
  | add | sub | mul | div => exact arithCommand_answersResult f _ a b s
  | enc | dec | neg | isnz | eq | ne | lt | le | gt | ge => exact .inl ⟨_, rfl, rfl⟩

/-- What a command can do, in every state. -/
theorem exec_answersResult (i : Instr) (s : State) :
    AnswersResult i.fmt (resultWord i.op i.fmt i.opA i.opB) s (exec i s) :=
  exec_eq_execOp i s ▸ execOp_answersResult i.op i.fmt i.opA i.opB s

/-- The result word of a command when the draw is `z`. -/
def resultWithDraw (i : Instr) (z : Word) : Word :=
  (resultWord i.op i.fmt i.opA i.opB).getD (enc blockParams i.fmt z)

theorem resultWithDraw_congr {i : Instr} (h : isArith i.op = false) (z z' : Word) :
    resultWithDraw i z = resultWithDraw i z' := by
  unfold resultWithDraw
  cases hr : resultWord i.op i.fmt i.opA i.opB with
  | some r => rfl
  | none => exact absurd (isArith_of_resultWord_eq_none hr) (by simp [h])

/-- Every command goes on, leaves the requests in flight alone and adds the response that its operands and the draw give. -/
theorem exec_next_result (i : Instr) (s : State) :
    ∃ t, exec i s = .next t ∧ t.inflight = s.inflight ∧
      t.responses = s.responses ++ [⟨resultWithDraw i (arithNan s), false⟩] := by
  unfold resultWithDraw
  obtain ⟨r, hr, hnext⟩ | ⟨hnone, hnext⟩ := exec_answersResult i s
  · exact ⟨_, hnext, rfl, by simp [hr, answered]⟩
  · exact ⟨_, hnext, rfl, by simp [hnone, answered]⟩

/-- The response to a request when the draw is `z`. -/
def responseTo (q : Request) (z : Word) : Response :=
  match decode blockParams q with
  | .ok i    => ⟨resultWithDraw i z, false⟩
  | .error _ => ⟨0#32, true⟩

theorem responseTo_of_ok {q : Request} {i : Instr} (h : decode blockParams q = .ok i) (z : Word) :
    responseTo q z = ⟨resultWithDraw i z, false⟩ := by
  simp only [responseTo, h]

theorem responseTo_of_error {q : Request} {e : Reject} (h : decode blockParams q = .error e) (z : Word) :
    responseTo q z = ⟨0#32, true⟩ := by
  simp only [responseTo, h]

/-- A step takes the oldest request out of flight and delivers the response that the request and the draw give. -/
theorem step_delivers_responseTo {s : State} {q : Request} {rest : List Request} (h : s.inflight = q :: rest) :
    ∃ t, step s = .next t ∧ t.inflight = rest ∧ t.responses = s.responses ++ [responseTo q (arithNan s)] := by
  rw [step_cons h]
  cases hd : decode blockParams q with
  | ok i => exact responseTo_of_ok hd _ ▸ exec_next_result i { s with inflight := rest }
  | error e => exact responseTo_of_error hd _ ▸ ⟨_, illegalCommand_next e _, rfl, rfl⟩

/-- Settles O15: the function of the draw is `responseTo q`, which reads the draw only where a command has no result word of
its own, and that is an arithmetic command. -/
theorem responseIsAFunctionOfTheRequest : Obligations.ResponseIsAFunctionOfTheRequest := by
  unfold Obligations.ResponseIsAFunctionOfTheRequest
  intro q
  refine ⟨responseTo q, fun s rest h => step_delivers_responseTo h, fun i hi hop z z' => ?_⟩
  rw [responseTo_of_ok hi, responseTo_of_ok hi, resultWithDraw_congr hop z z']

end Sys2Proof.Machine
end

section
/-! PROOFS. Storage of codes (R42, R43): the bytes a code takes, what a store of one or two bytes is, and that a load gives back
the masked code. -/

namespace Sys2Proof.Machine

/-- Every format but bfloat16 has at most eight bits. -/
theorem storageBytes_eq (f : Format) : storageBytes f = if f = .bf16 then 2 else 1 := by
  cases f <;> rfl

theorem storageBytes_of_ne_bf16 {f : Format} (h : f ≠ .bf16) : storageBytes f = 1 := by
  rw [storageBytes_eq, if_neg h]

theorem storeCode_of_ne_bf16 {f : Format} (h : f ≠ .bf16) (o : ByteOrder) (c : Word) :
    storeCode o f c = [(codeOperand f c).extractLsb' 0 8] := by
  simp only [storeCode, storageBytes_of_ne_bf16 h, if_true]

theorem loadCode_of_ne_bf16 {f : Format} (h : f ≠ .bf16) (o : ByteOrder) (x : BitVec 8) :
    loadCode o f [x] = some (codeOperand f (x.setWidth 32)) := by
  simp only [loadCode, storageBytes_of_ne_bf16 h, if_true]

@[simp] theorem length_storeCode (o : ByteOrder) (f : Format) (c : Word) :
    (storeCode o f c).length = storageBytes f := by
  by_cases h : f = .bf16
  · subst h
    cases o <;> rfl
  · rw [storeCode_of_ne_bf16 h, storageBytes_of_ne_bf16 h, List.length_singleton]

/-- A load of a stored bfloat16 code puts its two bytes together again, in either byte order. -/
theorem loadCode_storeCode_bf16 (o : ByteOrder) (c : Word) :
    loadCode o .bf16 (storeCode o .bf16 c) =
      some (codeOperand .bf16
        (((codeOperand .bf16 c).extractLsb' 8 8 ++ (codeOperand .bf16 c).extractLsb' 0 8).setWidth 32)) := by
  cases o <;> rfl

/-- The low `n` bits of a word, zero-extended, are the word under the mask of `n` bits. -/
theorem setWidth_lowBits {n : Nat} (hn : n ≤ 32) (w : Word) :
    (w.extractLsb' 0 n).setWidth 32 = w &&& BitVec.ofNat 32 (2 ^ n - 1) := by
  have hpow : 2 ^ n ≤ 2 ^ 32 := Nat.pow_le_pow_right (by decide) hn
  have hmask : (2 ^ n - 1) % 2 ^ 32 = 2 ^ n - 1 := Nat.mod_eq_of_lt (by omega)
  have hlow : w.toNat % 2 ^ n < 2 ^ 32 := (Nat.mod_lt _ (by positivity)).trans_le hpow
  apply BitVec.eq_of_toNat_eq
  rw [BitVec.toNat_setWidth, BitVec.extractLsb'_toNat, Nat.shiftRight_zero, Nat.mod_eq_of_lt hlow, BitVec.toNat_and,
    BitVec.toNat_ofNat, hmask, Nat.and_two_pow_sub_one_eq_mod]

theorem setWidth_lowByte (w : Word) : (w.extractLsb' 0 8).setWidth 32 = w &&& 0xFF#32 :=
  setWidth_lowBits (by decide) w

theorem setWidth_lowBytes (w : Word) :
    (w.extractLsb' 8 8 ++ w.extractLsb' 0 8).setWidth 32 = w &&& 0xFFFF#32 := by
  rw [BitVec.extractLsb'_append_extractLsb'_eq_extractLsb' (by rfl)]
  exact setWidth_lowBits (by decide) w

theorem wmask_and_byte {f : Format} (h : f ≠ .bf16) : wmask f &&& 0xFF#32 = wmask f := by
  cases f with
  | bf16 => exact absurd rfl h
  | e5m2 | e4m3fn | e8m0 | e2m3fn | e3m2fn | e2m1fn => decide

/-- A mask that covers the format's own leaves the code of a word as it is. -/
theorem codeOperand_and {f : Format} {m : Word} (h : wmask f &&& m = wmask f) (w : Word) :
    codeOperand f (w &&& m) = codeOperand f w := by
  rw [codeOperand, BitVec.and_assoc, BitVec.and_comm m, h, codeOperand]

/-- The bytes stored hold every bit under the format's mask, so a load gives back the masked code. -/
theorem loadCode_storeCode (o : ByteOrder) (f : Format) (c : Word) :
    loadCode o f (storeCode o f c) = some (codeOperand f c) := by
  by_cases h : f = .bf16
  · subst h
    rw [loadCode_storeCode_bf16, setWidth_lowBytes, codeOperand_and (by decide), codeOperand_idem]
  · rw [storeCode_of_ne_bf16 h, loadCode_of_ne_bf16 h, setWidth_lowByte, codeOperand_and (wmask_and_byte h), codeOperand_idem]

/-- Settles O60: the code is masked on the store and again on the load, and the bytes between hold every bit of the mask. -/
theorem storedCodesReadBack : Obligations.StoredCodesReadBack := by
  unfold Obligations.StoredCodesReadBack
  exact ⟨storageBytes_eq, fun o f c => ⟨length_storeCode o f c, loadCode_storeCode o f c⟩,
    fun o _ c h => storeCode_of_ne_bf16 h o c, fun o _ x h => loadCode_of_ne_bf16 h o x⟩

end Sys2Proof.Machine
end

section
/-! PROOFS. The encoder's dispatch (R104), its truncate-only branch (R119), and zero operands of the shared algorithm (R107). -/

namespace Sys2Proof.Machine

open Sys2Proof.Safety Sys2Proof.Exact

/-- An ENC command answers with the code that the encoder gives. -/
theorem exec_enc {i : Instr} (h : i.op = .enc) (s : State) :
    exec i s = .next (answered (enc blockParams i.fmt i.opA) s) := by
  rw [exec_eq_execOp, h]
  exact encCommand_next i.fmt i.opA s

/-- bfloat16 is the truncate-only format. -/
theorem enc_bf16 (p : Params) (a : Word) : enc p .bf16 a = encTrunc a := rfl

/-- The five formats of the shared algorithm are neither truncate-only nor PowerOfTwoScale. -/
theorem enc_of_isStd {f : Format} (h : isStd f = true) (p : Params) (a : Word) : enc p f a = encStd p f a := by
  cases f with
  | e8m0 | bf16 => cases h
  | e5m2 | e4m3fn | e2m3fn | e3m2fn | e2m1fn => rfl

/-- The top half of a word, zero-extended, is the word shifted right by 16. -/
theorem encTrunc_eq_ushiftRight (a : Word) : encTrunc a = a >>> 16 := by
  have htop : a.toNat >>> 16 < 2 ^ 16 := by
    rw [Nat.shiftRight_eq_div_pow]
    exact Nat.div_lt_of_lt_mul a.isLt
  apply BitVec.eq_of_toNat_eq
  rw [encTrunc, BitVec.toNat_setWidth, BitVec.extractLsb'_toNat, BitVec.toNat_ushiftRight, Nat.mod_eq_of_lt htop,
    Nat.mod_eq_of_lt (htop.trans (by decide))]

/-- Settles O26: ENC.bf16 runs the truncate-only encoder on every operand, and that is a shift. -/
theorem encBf16TakesTheTopHalf : Obligations.EncBf16TakesTheTopHalf := by
  unfold Obligations.EncBf16TakesTheTopHalf
  intro a s
  calc exec (.encBf16 a) s
      = .next (answered (enc blockParams .bf16 a) s) := exec_enc rfl s
    _ = .next (answered (a >>> 16) s) := by rw [enc_bf16, encTrunc_eq_ushiftRight]

/-- A zero operand takes the zero branch of the shared algorithm, before any rounding. -/
@[simp] theorem encFields_zero (p : Params) (f : Format) : encFields p f 0 0 = (0, 0) := rfl

/-- A code of zero fields holds its sign bit alone. -/
theorem packCode_zero_fields {f : Format} (h : isStd f = true) (neg : Bool) :
    packCode f neg 0 0 = if neg then smask f else 0#32 := by
  cases f with
  | e8m0 | bf16 => cases h
  | e5m2 | e4m3fn | e2m3fn | e3m2fn | e2m1fn => cases neg <;> rfl

/-- The code of a zero operand is its sign, at the format's sign bit. -/
theorem enc_of_zero_fields {f : Format} (h : isStd f = true) (p : Params) {a : Word} (hexp : f32Exp a = 0)
    (hfrac : f32Frac a = 0) : enc p f a = if f32Sign a then smask f else 0#32 := by
  rw [enc_of_isStd h, encStd, hexp, hfrac, encFields_zero, packCode_zero_fields h]

/-- Settles O28: +0.0 and -0.0 have zero fields, so their codes differ by the sign bit alone. -/
theorem encSignedZeros : Obligations.EncSignedZeros := by
  unfold Obligations.EncSignedZeros
  intro f h
  exact ⟨enc_of_zero_fields h _ (by decide) (by decide), enc_of_zero_fields h _ (by decide) (by decide)⟩

end Sys2Proof.Machine
end

section
/-! PROOFS. The decoder's dispatch (R160) and its truncate-only branch (R168). -/

namespace Sys2Proof.Machine

open Sys2Proof.Safety Sys2Proof.Exact

/-- A DEC command answers with the pattern that the decoder gives. -/
theorem exec_dec {i : Instr} (h : i.op = .dec) (s : State) :
    exec i s = .next (answered (decOperand i.fmt i.opA) s) := by
  rw [exec_eq_execOp, h]
  exact decCommand_next i.fmt i.opA s

/-- The truncate-only decoder masks its operand itself, so the mask on the operand adds nothing. -/
theorem decOperand_bf16 (c : Word) : decOperand .bf16 c = (c &&& 0xFFFF#32) <<< 16 := by
  have hmask : c &&& 0xFFFF#32 &&& 0xFFFF#32 = c &&& 0xFFFF#32 := codeOperand_idem .bf16 c
  exact congrArg (fun w : Word => w <<< 16) hmask

/-- The five formats of the shared expander are neither truncate-only nor PowerOfTwoScale. -/
theorem decOperand_of_isStd {f : Format} (h : isStd f = true) (c : Word) :
    decOperand f c = decStd blockParams f (codeOperand f c) := by
  cases f with
  | e8m0 | bf16 => cases h
  | e5m2 | e4m3fn | e2m3fn | e3m2fn | e2m1fn => rfl

/-- Settles O36: DEC.bf16 runs the truncate-only decoder on every operand, and that is a mask and a shift. -/
theorem decBf16FillsTheHighHalf : Obligations.DecBf16FillsTheHighHalf := by
  unfold Obligations.DecBf16FillsTheHighHalf
  intro a s
  calc exec (.decBf16 a) s
      = .next (answered (decOperand .bf16 a) s) := exec_dec rfl s
    _ = .next (answered ((a &&& 0xFFFF#32) <<< 16) s) := by rw [decOperand_bf16]

end Sys2Proof.Machine
end

section
/-! PROOFS. The shared expander is exact (R166): `F32Bits` keeps every short significand, the magnitude of a code has one, and so
a code that is no special decodes to a finite pattern of the code's sign and value (R162). -/

namespace Sys2Proof.Machine

open Sys2Proof.Exact

/-- The shift that `f32Bits` chooses does not cut into a significand below `2^24`. -/
theorem log2_sub_le {sig e : Nat} (hsig : sig < 2 ^ 24) : Nat.log2 (sig * 2 ^ e) - 23 ≤ e := by
  obtain rfl | hpos := Nat.eq_zero_or_pos sig
  · rw [zero_mul, Nat.log2_zero]
    omega
  · have hlt : sig * 2 ^ e < 2 ^ (24 + e) := by
      rw [pow_add]
      exact Nat.mul_lt_mul_of_pos_right hsig (Nat.two_pow_pos e)
    have hlog := (Nat.log2_lt (Nat.mul_pos hpos (Nat.two_pow_pos e)).ne').2 hlt
    omega

/-- `f32Bits` does not round a significand below `2^24`: its pattern is finite and of exactly that magnitude. -/
theorem f32Bits_exact {sig e : Nat} (hsig : sig < 2 ^ 24) (he : e ≤ 253) :
    ∃ n, f32Bits (sig * 2 ^ e) = BitVec.ofNat 32 n ∧ n < 255 * 2 ^ 23 ∧ gridMag n = sig * 2 ^ e := by
  have hshift := log2_sub_le (e := e) hsig
  obtain ⟨hhi, hlo⟩ := roundShift_spec (sig * 2 ^ e) Nat.one_pos
  simp only [Nat.div_one, mul_one] at hhi hlo
  refine ⟨_, rfl, ?_⟩
  generalize Nat.log2 (sig * 2 ^ e) - 23 = shift at hshift hhi hlo ⊢
  have hpow : 0 < 2 ^ shift := Nat.two_pow_pos shift
  have htop : sig * 2 ^ e / 2 ^ shift < 2 ^ 24 := (Nat.div_lt_iff_lt_mul hpow).2 hhi
  have hnormal : shift = 0 ∨ 2 ^ 23 ≤ sig * 2 ^ e / 2 ^ shift := hlo.imp_right (Nat.le_div_iff_mul_le hpow).2
  refine ⟨by omega, ?_⟩
  rw [gridMag_of_sig htop.le hnormal]
  exact Nat.div_mul_cancel ((pow_dvd_pow 2 hshift).mul_left sig)

/-- The field widths of the shared formats leave every code's significand and exponent inside binary32's range. -/
theorem isStd_bounds {f : Format} (h : isStd f = true) :
    (formatSpec f).mantBits ≤ 3 ∧ (formatSpec f).expBits ≤ 5 ∧ (formatSpec f).bias ≤ 15 := by
  cases f with
  | e8m0 | bf16 => cases h
  | e5m2 | e4m3fn | e2m3fn | e3m2fn | e2m1fn => decide

theorem codeExp_lt (f : Format) (c : Word) : codeExp f c < 2 ^ (formatSpec f).expBits := BitVec.isLt _

theorem codeMant_lt (f : Format) (c : Word) : codeMant f c < 2 ^ (formatSpec f).mantBits := BitVec.isLt _

theorem codeMag_subnormal (f : Format) (m : Nat) :
    codeMag f 0 m = m * 2 ^ (150 - (formatSpec f).bias - (formatSpec f).mantBits) := rfl

theorem codeMag_normal (f : Format) {x : Nat} (hx : x ≠ 0) (m : Nat) :
    codeMag f x m =
      (2 ^ (formatSpec f).mantBits + m) * 2 ^ (149 + x - (formatSpec f).bias - (formatSpec f).mantBits) :=
  if_neg hx

/-- The magnitude of a code has a short significand and a small exponent (R166). -/
theorem codeMag_eq_sig_mul {f : Format} (h : isStd f = true) (c : Word) :
    ∃ sig e, codeMag f (codeExp f c) (codeMant f c) = sig * 2 ^ e ∧ sig < 2 ^ 24 ∧ e ≤ 253 := by
  obtain ⟨hM, hE, -⟩ := isStd_bounds h
  have hm : codeMant f c < 2 ^ 3 := (codeMant_lt f c).trans_le (Nat.pow_le_pow_right two_pos hM)
  have hx : codeExp f c < 2 ^ 5 := (codeExp_lt f c).trans_le (Nat.pow_le_pow_right two_pos hE)
  by_cases h0 : codeExp f c = 0
  · exact ⟨_, _, h0 ▸ codeMag_subnormal f _, by omega, by omega⟩
  · have hlead : 2 ^ (formatSpec f).mantBits ≤ 2 ^ 3 := Nat.pow_le_pow_right two_pos hM
    exact ⟨_, _, codeMag_normal f h0 _, by omega, by omega⟩

/-- The value of a code by the formulas of R162 is its magnitude, counted in units of `2^-149`. -/
theorem codeRat_eq_mag {f : Format} (h : isStd f = true) (c : Word) :
    codeRat f c =
      (if codeSign f c then -1 else 1) * ((codeMag f (codeExp f c) (codeMant f c) : ℚ) * 2 ^ (-149 : ℤ)) := by
  obtain ⟨hM, -, hbias⟩ := isStd_bounds h
  simp only [codeRat]
  congr 1
  generalize codeMant f c = m
  generalize codeExp f c = x
  by_cases h0 : x = 0
  · subst h0
    have hexp : 1 - ((formatSpec f).bias : ℤ) - (formatSpec f).mantBits =
        ((150 - (formatSpec f).bias - (formatSpec f).mantBits : ℕ) : ℤ) + (-149) := by omega
    rw [if_pos rfl, codeMag_subnormal, hexp, zpow_add₀ two_ne_zero, zpow_natCast]
    push_cast
    ring
  · have hexp : (x : ℤ) - (formatSpec f).bias =
        ((149 + x - (formatSpec f).bias - (formatSpec f).mantBits : ℕ) : ℤ) + (formatSpec f).mantBits + (-149) := by
      omega
    rw [if_neg h0, codeMag_normal f h0, hexp, zpow_add₀ two_ne_zero, zpow_add₀ two_ne_zero, zpow_natCast, zpow_natCast]
    push_cast
    field_simp

/-- The value branch of the expander: a finite pattern with the code's sign and value. -/
theorem sign_or_f32Bits_codeMag {f : Format} (h : isStd f = true) (c : Word) :
    let w := f32SignBit (codeSign f c) ||| f32Bits (codeMag f (codeExp f c) (codeMant f c))
    Finite32 w ∧ f32Sign w = codeSign f c ∧ f32Rat w = codeRat f c := by
  obtain ⟨sig, e, hmag, hsig, he⟩ := codeMag_eq_sig_mul h c
  obtain ⟨n, hbits, hn, hgrid⟩ := f32Bits_exact hsig he
  obtain ⟨hsign, hexp, hfrac⟩ := fields_of_sign_or (codeSign f c) (show n < 2 ^ 31 by omega)
  intro w
  simp only [w, hmag, hbits]
  refine ⟨?_, hsign, ?_⟩
  · rw [Finite32, hexp]
    omega
  · rw [f32Rat_eq_mag, codeRat_eq_mag h, hsign, hexp, hfrac, hmag, ← hgrid, gridMag]

/-- A code that is no special of its policy decodes by the subnormal and normal formulas (R162). -/
theorem decStd_of_not_special {f : Format} (h : isStd f = true) (p : Params) {c : Word}
    (hieee : ¬ ((formatSpec f).policy = .ieeeLike ∧ codeExp f c = emaxf f))
    (hsentinel : ¬ ((formatSpec f).policy = .finiteWithNanSentinel ∧ codeExp f c = emaxf f ∧ codeMant f c = mmax f)) :
    Finite32 (decStd p f c) ∧ f32Sign (decStd p f c) = codeSign f c ∧ f32Rat (decStd p f c) = codeRat f c := by
  have hvalue : decStd p f c = f32SignBit (codeSign f c) ||| f32Bits (codeMag f (codeExp f c) (codeMant f c)) := by
    simp only [decStd]
    rw [if_neg hieee, if_neg hsentinel]
  rw [hvalue]
  exact sign_or_f32Bits_codeMag h c

/-- The value of a code with a nonzero exponent field, from its fields. -/
theorem codeRat_of_normal_fields {f : Format} {c : Word} {s : Bool} {x m : Nat} (hs : codeSign f c = s)
    (hx : codeExp f c = x) (hm : codeMant f c = m) (h0 : x ≠ 0) :
    codeRat f c = (if s then -1 else 1) *
      ((1 + (m : ℚ) / 2 ^ (formatSpec f).mantBits) * 2 ^ ((x : ℤ) - ((formatSpec f).bias : ℤ))) := by
  simp only [codeRat, hs, hx, hm, if_neg h0]

end Sys2Proof.Machine
end

section
/-! PROOFS. The FiniteSaturating formats have no special code (R165). -/

namespace Sys2Proof.Machine

open Sys2Proof.Exact

/-- A FiniteSaturating format runs the shared expander. -/
theorem isStd_of_saturating {f : Format} (h : (formatSpec f).policy = .finiteSaturating) : isStd f = true := by
  cases f with
  | e5m2 | e4m3fn | e8m0 | bf16 => cases h
  | e2m3fn | e3m2fn | e2m1fn => rfl

/-- Neither special branch of the expander is one of the policy, so every code has the value of the formulas. -/
theorem decOperand_of_saturating {f : Format} (h : (formatSpec f).policy = .finiteSaturating) (c : Word) :
    Finite32 (decOperand f c) ∧ f32Rat (decOperand f c) = codeRat f (codeOperand f c) := by
  have hstd := isStd_of_saturating h
  obtain ⟨hfinite, -, hvalue⟩ := decStd_of_not_special hstd blockParams (c := codeOperand f c)
    (by simp [h]) (by simp [h])
  rw [decOperand_of_isStd hstd]
  exact ⟨hfinite, hvalue⟩

/-- The saturation code of either sign, all ones below the sign bit, is the largest finite magnitude (R165, R23). -/
theorem codeRat_saturationCode {f : Format} (h : (formatSpec f).policy = .finiteSaturating) (s : Bool) :
    codeRat f (packCode f s (emaxf f) (mmax f)) = (if s then -1 else 1) * maxFinite f := by
  have hfields : codeSign f (packCode f s (emaxf f) (mmax f)) = s ∧
      codeExp f (packCode f s (emaxf f) (mmax f)) = emaxf f ∧
      codeMant f (packCode f s (emaxf f) (mmax f)) = mmax f ∧ emaxf f ≠ 0 := by
    cases f with
    | e5m2 | e4m3fn | e8m0 | bf16 => cases h
    | e2m3fn | e3m2fn | e2m1fn => cases s <;> decide
  obtain ⟨hs, hx, hm, h0⟩ := hfields
  rw [codeRat_of_normal_fields hs hx hm h0]
  congr 1
  cases f with
  | e5m2 | e4m3fn | e8m0 | bf16 => cases h
  | e2m3fn | e3m2fn | e2m1fn => norm_num [formatSpec, emaxf, mmax, maxFinite]

/-- A word whose code is the saturation code decodes to the largest finite magnitude with its sign. -/
theorem f32Rat_decOperand_saturationCode {f : Format} (h : (formatSpec f).policy = .finiteSaturating) (s : Bool)
    {c : Word} (hc : codeOperand f c = packCode f s (emaxf f) (mmax f)) :
    f32Rat (decOperand f c) = (if s then -1 else 1) * maxFinite f := by
  obtain ⟨-, hvalue⟩ := decOperand_of_saturating h c
  rw [hvalue, hc, codeRat_saturationCode h]

/-- Settles O38: with no special branch every code is decoded by the formulas, the saturation codes among them. -/
theorem satDecodesNoSpecial : Obligations.SatDecodesNoSpecial := by
  unfold Obligations.SatDecodesNoSpecial
  refine ⟨fun c => ⟨decOperand_of_saturating rfl c, decOperand_of_saturating rfl c, decOperand_of_saturating rfl c⟩,
    ?_, ?_, ?_, ?_, ?_, ?_⟩
  · simpa [maxFinite] using f32Rat_decOperand_saturationCode (f := .e2m3fn) rfl false (c := 0x1F#32) (by decide)
  · simpa [maxFinite] using f32Rat_decOperand_saturationCode (f := .e3m2fn) rfl false (c := 0x1F#32) (by decide)
  · simpa [maxFinite] using f32Rat_decOperand_saturationCode (f := .e2m1fn) rfl false (c := 0x7#32) (by decide)
  · simpa [maxFinite] using f32Rat_decOperand_saturationCode (f := .e2m3fn) rfl true (c := 0x3F#32) (by decide)
  · simpa [maxFinite] using f32Rat_decOperand_saturationCode (f := .e3m2fn) rfl true (c := 0x3F#32) (by decide)
  · simpa [maxFinite] using f32Rat_decOperand_saturationCode (f := .e2m1fn) rfl true (c := 0xF#32) (by decide)

end Sys2Proof.Machine
end

section
/-! PROOFS. float8_e4m3fn has one special code of each sign, the NaN sentinel (R164). -/

namespace Sys2Proof.Machine

open Sys2Proof.Exact

/-- An 8-bit code of float8_e4m3fn is its sign, exponent field and mantissa field. -/
theorem toNat_codeOperand_e4m3fn (c : Word) :
    (codeOperand .e4m3fn c).toNat = (codeSign .e4m3fn (codeOperand .e4m3fn c)).toNat * 128 +
      codeExp .e4m3fn (codeOperand .e4m3fn c) * 8 + codeMant .e4m3fn (codeOperand .e4m3fn c) := by
  have hlt : (codeOperand .e4m3fn c).toNat < 256 := by
    rw [codeOperand, BitVec.toNat_and]
    exact Nat.lt_succ_of_le Nat.and_le_right
  generalize codeOperand .e4m3fn c = d at hlt ⊢
  have hs : (codeSign .e4m3fn d).toNat = d.toNat / 128 % 2 := by
    simp [codeSign, formatSpec, BitVec.getLsbD, Nat.toNat_testBit]
  have hx : codeExp .e4m3fn d = d.toNat / 8 % 16 := by
    simp [codeExp, formatSpec, BitVec.extractLsb'_toNat, Nat.shiftRight_eq_div_pow]
  have hm : codeMant .e4m3fn d = d.toNat % 8 := by
    simp [codeMant, formatSpec, BitVec.extractLsb'_toNat]
  omega

/-- The sentinel's fields, exponent 15 and mantissa 7, are those of 0x7F and 0xFF alone. -/
theorem sentinel_fields_iff (c : Word) :
    codeExp .e4m3fn (codeOperand .e4m3fn c) = 15 ∧ codeMant .e4m3fn (codeOperand .e4m3fn c) = 7 ↔
      codeOperand .e4m3fn c = 0x7F#32 ∨ codeOperand .e4m3fn c = 0xFF#32 := by
  constructor
  · intro ⟨hx, hm⟩
    have hcode := toNat_codeOperand_e4m3fn c
    rw [hx, hm] at hcode
    cases hs : codeSign .e4m3fn (codeOperand .e4m3fn c) with
    | false => exact .inl (BitVec.eq_of_toNat_eq (by rw [hcode, hs]; rfl))
    | true => exact .inr (BitVec.eq_of_toNat_eq (by rw [hcode, hs]; rfl))
  · rintro (h | h) <;> rw [h] <;> decide

/-- The sentinel decodes to a NaN of its sign. -/
theorem isNaN32_decOperand_sentinel {c : Word}
    (h : codeOperand .e4m3fn c = 0x7F#32 ∨ codeOperand .e4m3fn c = 0xFF#32) :
    isNaN32 (decOperand .e4m3fn c) = true := by
  rw [decOperand_of_isStd rfl]
  obtain h | h := h <;> rw [h] <;> decide

/-- Every other code has the value of the formulas. -/
theorem decOperand_e4m3fn_of_not_sentinel {c : Word}
    (h : ¬ (codeOperand .e4m3fn c = 0x7F#32 ∨ codeOperand .e4m3fn c = 0xFF#32)) :
    Finite32 (decOperand .e4m3fn c) ∧ f32Rat (decOperand .e4m3fn c) = codeRat .e4m3fn (codeOperand .e4m3fn c) := by
  obtain ⟨hfinite, -, hvalue⟩ := decStd_of_not_special (f := .e4m3fn) rfl blockParams (c := codeOperand .e4m3fn c)
    (fun ⟨hpolicy, _⟩ => nomatch hpolicy) (fun ⟨_, hfields⟩ => h ((sentinel_fields_iff c).1 hfields))
  rw [decOperand_of_isStd rfl]
  exact ⟨hfinite, hvalue⟩

theorem isNaN32_decOperand_e4m3fn_iff (c : Word) :
    isNaN32 (decOperand .e4m3fn c) = true ↔ codeOperand .e4m3fn c = 0x7F#32 ∨ codeOperand .e4m3fn c = 0xFF#32 := by
  refine ⟨fun hnan => ?_, isNaN32_decOperand_sentinel⟩
  by_contra h
  exact (decOperand_e4m3fn_of_not_sentinel h).1 ((isNaN32_iff _).1 hnan).1

theorem isInf32_decOperand_e4m3fn (c : Word) : isInf32 (decOperand .e4m3fn c) = false := by
  rw [Bool.eq_false_iff, Ne, isInf32_iff]
  intro ⟨hexp, hfrac⟩
  by_cases h : codeOperand .e4m3fn c = 0x7F#32 ∨ codeOperand .e4m3fn c = 0xFF#32
  · exact ((isNaN32_iff _).1 (isNaN32_decOperand_sentinel h)).2 hfrac
  · exact (decOperand_e4m3fn_of_not_sentinel h).1 hexp

/-- The code of sign `s`, exponent field 15 and mantissa field `k`. -/
def topCode (s : Bool) (k : Nat) : Word := packCode .e4m3fn s 15 k

theorem topCode_fields : ∀ s, ∀ k ≤ 6, codeOperand .e4m3fn (topCode s k) = topCode s k ∧
    codeSign .e4m3fn (topCode s k) = s ∧ codeExp .e4m3fn (topCode s k) = 15 ∧ codeMant .e4m3fn (topCode s k) = k := by
  decide

/-- Below the sentinel, the codes of exponent field 15 are ordinary normal values, 256 to 448 in steps of 32 (R164). -/
theorem f32Rat_decOperand_topCode (s : Bool) {k : Nat} (hk : k ≤ 6) :
    f32Rat (decOperand .e4m3fn (topCode s k)) = (if s then -1 else 1) * (256 + 32 * (k : ℚ)) := by
  obtain ⟨hcode, hs, hx, hm⟩ := topCode_fields s k hk
  have hother : ¬ (codeOperand .e4m3fn (topCode s k) = 0x7F#32 ∨ codeOperand .e4m3fn (topCode s k) = 0xFF#32) := by
    rw [← sentinel_fields_iff, hcode, hx, hm]
    omega
  obtain ⟨-, hvalue⟩ := decOperand_e4m3fn_of_not_sentinel hother
  rw [hvalue, hcode, codeRat_of_normal_fields hs hx hm (by decide)]
  congr 1
  norm_num [formatSpec]
  ring

/-- The codes 0x78 to 0x7E and 0xF8 to 0xFE, written out. -/
theorem topCode_eq_ofNat : ∀ k ≤ 6,
    topCode false k = BitVec.ofNat 32 (0x78 + k) ∧ topCode true k = BitVec.ofNat 32 (0xF8 + k) := by decide

/-- Settles O37: the sentinel's two codes are the only special ones, and every other code has the value of the formulas. -/
theorem fnDecodesOnlyTheSentinelToNan : Obligations.FnDecodesOnlyTheSentinelToNan := by
  unfold Obligations.FnDecodesOnlyTheSentinelToNan
  refine ⟨isNaN32_decOperand_e4m3fn_iff, isInf32_decOperand_e4m3fn, fun c hpos hneg => ?_, fun k hk => ?_⟩
  · exact (decOperand_e4m3fn_of_not_sentinel (not_or.2 ⟨hpos, hneg⟩)).2
  · obtain ⟨hpos, hneg⟩ := topCode_eq_ofNat k hk
    rw [← hpos, ← hneg, f32Rat_decOperand_topCode false hk, f32Rat_decOperand_topCode true hk]
    simp

end Sys2Proof.Machine
end

section
/-! PROOFS. ISNZ (R202): the nonzero test of a code is one mask, the format's code bits but the sign. -/

namespace Sys2Proof.Machine

open Sys2Proof.Safety Sys2Proof.Exact

/-- An ISNZ command answers with the nonzero test of its code. -/
theorem exec_isnz {i : Instr} (h : i.op = .isnz) (s : State) :
    exec i s = .next (answered (boolWord (codeNonzero i.fmt i.opA)) s) := by
  rw [exec_eq_execOp, h]
  exact isnzCommand_next i.fmt i.opA s

/-- The only format without a sign bit is the one whose codes are all nonzero; in the others the operand's mask and the mask of
the sign are one mask. -/
theorem codeNonzero_of_hasSign {f : Format} (h : (formatSpec f).hasSign = true) (w : Word) :
    codeNonzero f w = decide (w &&& (wmask f &&& ~~~ smask f) ≠ 0#32) := by
  rw [← BitVec.and_assoc]
  cases f with
  | e8m0 => cases h
  | e5m2 | e4m3fn | bf16 | e2m3fn | e3m2fn | e2m1fn => rfl

theorem boolWord_decide (p : Prop) [Decidable p] : boolWord (decide p) = if p then 1#32 else 0#32 := by
  by_cases h : p
  · rw [decide_eq_true h, if_pos h]; rfl
  · rw [decide_eq_false h, if_neg h]; rfl

theorem isnzOf_fields (f : Format) (a : Word) :
    (isnzOf f a).op = .isnz ∧ (isnzOf f a).fmt = f ∧ (isnzOf f a).opA = a := by
  cases f <;> exact ⟨rfl, rfl, rfl⟩

/-- In a format with a sign bit, ISNZ tests the code bits but the sign. -/
theorem isnzOf_testsNonzeroWith {f : Format} (h : (formatSpec f).hasSign = true) {mask : Word}
    (hmask : wmask f &&& ~~~ smask f = mask) : TestsNonzeroWith mask (isnzOf f) := by
  intro a s
  obtain ⟨hop, hfmt, hopA⟩ := isnzOf_fields f a
  rw [exec_isnz hop, hfmt, hopA, codeNonzero_of_hasSign h, hmask, boolWord_decide]

/-- The seven ISNZ command words (R71, R72). -/
theorem isnz_commandWords : [Format.e5m2, .e4m3fn, .e8m0, .bf16, .e2m3fn, .e3m2fn, .e2m1fn].map (commandWord .isnz) =
    [0x03#32, 0x13#32, 0x23#32, 0x33#32, 0x43#32, 0x53#32, 0x63#32] := by
  decide

/-- Settles O46: each mask is the format's `WMASK & ~SMASK`, and float8_e8m0, the PowerOfTwoScale format, has no test to make. -/
theorem isnzTestsTheMaskedCode : Obligations.IsnzTestsTheMaskedCode := by
  unfold Obligations.IsnzTestsTheMaskedCode
  exact ⟨isnzOf_testsNonzeroWith (f := .e5m2) rfl (by decide), isnzOf_testsNonzeroWith (f := .e4m3fn) rfl (by decide),
    fun a s => exec_isnz (i := .isnzE8m0 a) rfl s,
    isnzOf_testsNonzeroWith (f := .bf16) rfl (by decide), isnzOf_testsNonzeroWith (f := .e2m3fn) rfl (by decide),
    isnzOf_testsNonzeroWith (f := .e3m2fn) rfl (by decide), isnzOf_testsNonzeroWith (f := .e2m1fn) rfl (by decide),
    fun _ => isnz_commandWords⟩

end Sys2Proof.Machine
end

section
/-! PROOFS. No operand value of a legal command faults (R250). -/

namespace Sys2Proof.Machine

/-- Settles O13: the response carries the command's result word under the current draw, which `resultWord` and the draw give on
every operand. -/
theorem noOperandValueFaults : Obligations.NoOperandValueFaults := by
  unfold Obligations.NoOperandValueFaults
  intro i s
  obtain ⟨t, hnext, -, hresponses⟩ := exec_next_result i s
  exact ⟨resultWithDraw i (arithNan s), t, hnext, hresponses⟩

end Sys2Proof.Machine
end

section
/-! PROOFS. The decoder, both ways: what decodes, what its command is, and the list of illegal words (R70 to R78). -/

namespace Sys2Proof

open Sys2Proof.Machine Sys2Proof.Safety

theorem opOfField_eq_some {n : Nat} {op : Op} (h : opOfField n = some op) : n = opCode op := by
  unfold opOfField at h
  split at h
  case h_15 => cases h
  all_goals
    cases h
    rfl

theorem fmtOfField_eq_some {n : Nat} {f : Format} (h : fmtOfField n = some f) : n = fmtCode f := by
  unfold fmtOfField at h
  split at h
  case h_8 => cases h
  all_goals
    cases h
    rfl

/-- What decodes: the reserved bits are clear, the two fields select an operation and a format, the operation exists, and the pair
names a command. -/
theorem decode_eq_ok_iff {p : Params} {q : Request} {i : Instr} :
    decode p q = .ok i ↔ reservedField q.cmd = 0 ∧ ∃ op f, opField q.cmd = opCode op ∧ fmtField q.cmd = fmtCode f ∧
      (p.valueOps || !isValueOp op) = true ∧ commandOf op f q.a q.b = some i := by
  constructor
  · intro h
    simp only [decode] at h
    split at h
    · cases h
    rename_i hreserved
    split at h
    · cases h
    rename_i op hop
    split at h
    · cases h
    rename_i f hfmt
    split at h
    · cases h
    rename_i hvalue
    split at h
    · cases h
    rename_i hcommand
    cases h
    exact ⟨not_not.1 hreserved, op, f, opOfField_eq_some hop, fmtOfField_eq_some hfmt, by simpa [or_iff_not_imp_left] using hvalue, hcommand⟩
  · rintro ⟨hreserved, op, f, hop, hfmt, hvalue, hcommand⟩
    have hvalue' : (!p.valueOps && isValueOp op) = false := by
      rw [← Bool.not_eq_true', Bool.not_and, Bool.not_not, hvalue]
    simp [decode, hreserved, hop, hfmt, hvalue', hcommand]

/-- Settles O6: the fields of the command word are those of the command, and a command is the one they name. -/
theorem decodeOfEncode : Obligations.DecodeOfEncode := by
  unfold Obligations.DecodeOfEncode
  intro p i hwf
  obtain ⟨hop, hfmt, hreserved⟩ := commandWord_fields i.op i.fmt
  exact decode_eq_ok_iff.2 ⟨hreserved, i.op, i.fmt, hop, hfmt, hwf, commandOf_self i⟩

/-- A command word is its three fields. -/
theorem toNat_eq_commandFields (cmd : Word) :
    cmd.toNat = reservedField cmd * 128 + fmtField cmd * 16 + opField cmd := by
  have hlt := cmd.isLt
  simp only [reservedField, fmtField, opField, BitVec.extractLsb'_toNat, Nat.shiftRight_eq_div_pow]
  omega

/-- The word with clear reserved bits and the fields of an operation and a format is their command word. -/
theorem eq_commandWord {cmd : Word} {op : Op} {f : Format} (hreserved : reservedField cmd = 0)
    (hop : opField cmd = opCode op) (hfmt : fmtField cmd = fmtCode f) : cmd = commandWord op f := by
  obtain ⟨hop', hfmt', hreserved'⟩ := commandWord_fields op f
  apply BitVec.eq_of_toNat_eq
  rw [toNat_eq_commandFields, toNat_eq_commandFields (commandWord op f), hreserved, hop, hfmt, hreserved', hop', hfmt']

theorem exists_opCode {n : Nat} : (∃ op, n = opCode op) ↔ n < 14 := by
  constructor
  · rintro ⟨op, rfl⟩
    cases op <;> decide
  · intro h
    have hall : ∀ m < 14, (opOfField m).isSome = true := by decide
    obtain ⟨op, hop⟩ := Option.isSome_iff_exists.1 (hall n h)
    exact ⟨op, opOfField_eq_some hop⟩

theorem exists_fmtCode {n : Nat} : (∃ f, n = fmtCode f) ↔ n < 7 := by
  constructor
  · rintro ⟨f, rfl⟩
    cases f <;> decide
  · intro h
    have hall : ∀ m < 7, (fmtOfField m).isSome = true := by decide
    obtain ⟨f, hf⟩ := Option.isSome_iff_exists.1 (hall n h)
    exact ⟨f, fmtOfField_eq_some hf⟩

/-- The list of R76, read on the fields of the word. -/
theorem illegalWord_eq_false_iff {p : Params} {cmd : Word} :
    illegalWord p cmd = false ↔ reservedField cmd = 0 ∧ opField cmd < 14 ∧ fmtField cmd < 7 ∧
      ¬ (opField cmd = 2 ∧ fmtField cmd = 2) ∧ (p.valueOps = true ∨ opField cmd < 2) := by
  have hop : opField cmd < 16 := (cmd.extractLsb' 0 4).isLt
  have hfmt : fmtField cmd < 8 := (cmd.extractLsb' 4 3).isLt
  simp only [illegalWord, decide_eq_false_iff_not, BitVec.le_def, ← BitVec.toNat_inj, ne_eq]
  simp only [BitVec.toNat_ofNat, ← reservedField.eq_1, ← opField.eq_1, ← fmtField.eq_1]
  cases p.valueOps <;> simp <;> omega

/-- The last two conditions of R76 say of an operation and a format that the pair names an existing command. -/
theorem legal_pair_iff {p : Params} {op : Op} {f : Format} {a b : Word} :
    (¬ (opCode op = 2 ∧ fmtCode f = 2) ∧ (p.valueOps = true ∨ opCode op < 2)) ↔
      (p.valueOps || !isValueOp op) = true ∧ ∃ i, commandOf op f a b = some i := by
  have hneg : opCode op = 2 ∧ fmtCode f = 2 ↔ op = .neg ∧ f = .e8m0 := by
    cases op <;> cases f <;> decide
  have hvalue : opCode op < 2 ↔ isValueOp op = false := by cases op <;> decide
  rw [← Option.ne_none_iff_exists', ne_eq, commandOf_eq_none, hneg, hvalue, Bool.or_eq_true, Bool.not_eq_true', and_comm]

/-- A word decodes exactly when it is not in R76's list. -/
theorem exists_decode_iff {p : Params} {q : Request} :
    (∃ i, decode p q = .ok i) ↔ illegalWord p q.cmd = false := by
  simp only [decode_eq_ok_iff, illegalWord_eq_false_iff, ← exists_opCode, ← exists_fmtCode]
  constructor
  · rintro ⟨i, hreserved, op, f, hop, hfmt, hvalue, hcommand⟩
    rw [hop, hfmt]
    exact ⟨hreserved, ⟨op, rfl⟩, ⟨f, rfl⟩, legal_pair_iff.2 ⟨hvalue, i, hcommand⟩⟩
  · rintro ⟨hreserved, ⟨op, hop⟩, ⟨f, hfmt⟩, hlegal⟩
    rw [hop, hfmt] at hlegal
    obtain ⟨hvalue, i, hcommand⟩ := legal_pair_iff.1 hlegal
    exact ⟨i, hreserved, op, f, hop, hfmt, hvalue, hcommand⟩

/-- A word of R76's list is rejected, by some reason. -/
theorem exists_reject_of_illegalWord {p : Params} {q : Request} (h : illegalWord p q.cmd = true) :
    ∃ e, decode p q = .error e := by
  cases hd : decode p q with
  | error e => exact ⟨e, rfl⟩
  | ok i => exact absurd (exists_decode_iff.1 ⟨i, hd⟩) (by simp [h])

/-- A decoded request carries the command word of its command, which is well formed, and the operands. -/
theorem decode_ok_fields {p : Params} {q : Request} {i : Instr} (h : decode p q = .ok i) :
    q.cmd = commandWord i.op i.fmt ∧ wellFormed p i = true ∧ commandOf i.op i.fmt q.a q.b = some i := by
  obtain ⟨hreserved, op, f, hop, hfmt, hvalue, hcommand⟩ := decode_eq_ok_iff.1 h
  obtain ⟨rfl, rfl, -⟩ := commandOf_eq_some hcommand
  exact ⟨eq_commandWord hreserved hop hfmt, hvalue, hcommand⟩

/-- The 97 and 14 legal words of the table: every legal word is below 128. -/
theorem count_legalWords :
    ((List.range 128).filter fun w => !illegalWord blockParams (BitVec.ofNat 32 w)).length = 97 ∧
    ((List.range 128).filter fun w => !illegalWord { blockParams with valueOps := false } (BitVec.ofNat 32 w)).length = 14 := by
  decide +kernel

/-- Settles O5: the fields of a word that decodes are those R76 leaves, and the count runs through the words below 128. -/
theorem legalWordsAreExactlyTheTable : Obligations.LegalWordsAreExactlyTheTable := by
  unfold Obligations.LegalWordsAreExactlyTheTable
  refine ⟨fun _ _ => exists_decode_iff, fun p q i h => ?_, count_legalWords⟩
  obtain ⟨hcmd, hwf, -⟩ := decode_ok_fields h
  exact ⟨hcmd, hwf⟩

/-- The second operand of a command is the one it was named with, when it reads it. -/
theorem opB_of_commandOf {op : Op} {f : Format} {a b : Word} {i : Instr} (h : commandOf op f a b = some i) :
    i.opB = if isUnary op then 0#32 else b := by
  cases op <;> cases f <;> cases h <;> rfl

/-- Settles O7: the command word and the operands of a decoded request are those its command carries. -/
theorem encodeOfDecode : Obligations.EncodeOfDecode := by
  unfold Obligations.EncodeOfDecode
  intro p q i h
  obtain ⟨hcmd, -, hcommand⟩ := decode_ok_fields h
  obtain ⟨-, -, hopA⟩ := commandOf_eq_some hcommand
  rw [encode, hopA, opB_of_commandOf hcommand, ← hcmd]

/-- Settles O8: each word is decoded by its fields, whatever the operands are. -/
theorem sampleCommandWordsDecode : Obligations.SampleCommandWordsDecode := by
  unfold Obligations.SampleCommandWordsDecode
  intro a b
  refine ⟨?_, ?_, ?_, ?_, ?_, ?_, ?_, ?_, ?_, ?_, ?_, ?_, ?_, ?_, ?_, ?_, ?_, ?_, ?_⟩ <;> rfl

end Sys2Proof
end

section
/-! PROOFS. Steps and runs: what a step answers to the oldest request, and the run that answers them all (R20, R251, R280 to R288). -/

namespace Sys2Proof.Machine

open Sys2Proof.Safety

/-- Settles O1: reset empties the in-flight sequence, and an idle step changes nothing. -/
theorem resetLeavesNothingInFlight : Obligations.ResetLeavesNothingInFlight := by
  unfold Obligations.ResetLeavesNothingInFlight
  exact ⟨reset_inflight, reset_responses, fun s =>
    ⟨assertReset_inflight s, assertReset_responses s, step_nil (assertReset_inflight s)⟩⟩

/-- The step at a request that decodes. -/
theorem step_of_ok {s : State} {q : Request} {rest : List Request} {i : Instr} (h : s.inflight = q :: rest)
    (hd : decode blockParams q = .ok i) : step s = exec i { s with inflight := rest } := by
  rw [step_cons h, hd]

/-- The step at a request that is rejected. -/
theorem step_of_error {s : State} {q : Request} {rest : List Request} {e : Reject} (h : s.inflight = q :: rest)
    (hd : decode blockParams q = .error e) : step s = .next (answeredIllegal { s with inflight := rest }) := by
  rw [step_cons h, hd]
  exact illegalCommand_next e _

/-- Settles O2: the request issued at reset is the oldest in flight. -/
theorem firstRequestAfterResetIsServed : Obligations.FirstRequestAfterResetIsServed := by
  unfold Obligations.FirstRequestAfterResetIsServed
  intro q
  have hissued : (issue q State.reset).inflight = [q] := issue_inflight q State.reset
  exact ⟨fun i hi => step_of_ok hissued hi, fun e he => step_of_error hissued he⟩

/-- Settles O3. -/
theorem stepRunsTheDecodedCommand : Obligations.StepRunsTheDecodedCommand := by
  unfold Obligations.StepRunsTheDecodedCommand
  exact ⟨fun _ _ _ _ h hd => step_of_ok h hd, fun _ h => step_nil h⟩

/-- Settles O4: a word of R76's list is rejected, and every reason is answered alike. -/
theorem illegalCommandIsAnsweredWithError : Obligations.IllegalCommandIsAnsweredWithError := by
  unfold Obligations.IllegalCommandIsAnsweredWithError
  intro s cmd a b rest hillegal h
  obtain ⟨e, he⟩ := exists_reject_of_illegalWord (q := ⟨cmd, a, b⟩) hillegal
  exact step_of_error h he

/-- The command that an operation, a format and two words name is the operation's common form on those words. -/
theorem exec_of_commandOf {op : Op} {f : Format} {a b : Word} {i : Instr} (h : commandOf op f a b = some i) (s : State) :
    exec i s = execOp op f a b s := by
  cases op <;> cases f <;> cases h <;> rfl

/-- The step at a request that decodes, as its operation's common form on the request's own words. -/
theorem step_eq_execOp {s : State} {q : Request} {rest : List Request} {i : Instr}
    (hd : decode blockParams q = .ok i) :
    step { s with inflight := q :: rest } = execOp i.op i.fmt q.a q.b { s with inflight := rest } := by
  obtain ⟨-, -, hcommand⟩ := decode_ok_fields hd
  rw [step_of_ok rfl hd]
  exact exec_of_commandOf hcommand _

/-- Only the command word decides whether a request decodes, and to which operation and format. -/
theorem decode_ok_of_cmd_eq {p : Params} {q q' : Request} {i : Instr} (h : decode p q = .ok i) (hcmd : q'.cmd = q.cmd) :
    ∃ i', decode p q' = .ok i' ∧ i'.op = i.op ∧ i'.fmt = i.fmt := by
  obtain ⟨hreserved, op, f, hop, hfmt, hvalue, hcommand⟩ := decode_eq_ok_iff.1 h
  obtain ⟨hopi, hfmti, -⟩ := commandOf_eq_some hcommand
  have hnamed : commandOf op f q'.a q'.b ≠ none := by
    rw [ne_eq, commandOf_eq_none, ← commandOf_eq_none (a := q.a) (b := q.b), hcommand]
    nofun
  obtain ⟨i', hi'⟩ := Option.ne_none_iff_exists'.1 hnamed
  obtain ⟨hopi', hfmti', -⟩ := commandOf_eq_some hi'
  exact ⟨i', decode_eq_ok_iff.2 ⟨hcmd ▸ hreserved, op, f, hcmd ▸ hop, hcmd ▸ hfmt, hvalue, hi'⟩,
    hopi'.trans hopi.symm, hfmti'.trans hfmti.symm⟩

/-- A unary operation does not read `b` (R74). -/
theorem execOp_unary_congr {op : Op} (h : isUnary op = true) (f : Format) (a b b' : Word) (s : State) :
    execOp op f a b s = execOp op f a b' s := by
  cases op with
  | enc | dec | neg | isnz => rfl
  | add | sub | mul | div | eq | ne | lt | le | gt | ge => cases h

/-- Settles O9: both requests decode to the same operation and format, which does not read `b`. -/
theorem unusedOperandIsIgnored : Obligations.UnusedOperandIsIgnored := by
  unfold Obligations.UnusedOperandIsIgnored
  intro s cmd a b b' rest i hd hunary
  obtain ⟨i', hd', hop, hfmt⟩ := decode_ok_of_cmd_eq (q' := ⟨cmd, a, b'⟩) hd rfl
  rw [step_eq_execOp hd, step_eq_execOp hd', hop, hfmt, execOp_unary_congr hunary]

/-- An operation on codes reads its operands under the format's mask only (R66). -/
theorem execOp_codeOperand_congr {op : Op} (h : op ≠ .enc) {f : Format} {a a' b b' : Word}
    (ha : codeOperand f a = codeOperand f a') (hb : codeOperand f b = codeOperand f b') (s : State) :
    execOp op f a b s = execOp op f a' b' s := by
  have hda := decOperand_congr ha
  have hdb := decOperand_congr hb
  cases op with
  | enc => exact absurd rfl h
  | dec => simp only [execOp, decCommand, hda]
  | neg => simp only [execOp, negCommand, negCode_congr ha]
  | isnz => simp only [execOp, isnzCommand, codeNonzero_congr ha]
  | add | sub | mul | div => simp only [execOp, arithCommand, hda, hdb]
  | eq | ne => simp only [execOp, eqCommand, neCommand, codesEqual, hda, hdb]
  | lt | le | gt | ge => simp only [execOp, orderedCommand, ordered, hda, hdb]

/-- Settles O10: both requests decode to the same operation and format, which reads the masked operands only. -/
theorem unusedHighBitsOfCodesAreIgnored : Obligations.UnusedHighBitsOfCodesAreIgnored := by
  unfold Obligations.UnusedHighBitsOfCodesAreIgnored
  intro s q q' rest i hd hop hcmd ha hb
  obtain ⟨i', hd', hop', hfmt'⟩ := decode_ok_of_cmd_eq hd hcmd
  rw [step_eq_execOp hd, step_eq_execOp hd', hop', hfmt']
  exact execOp_codeOperand_congr hop ha.symm hb.symm _

/-- Settles O14: a command answers its result word and draws nothing, or it is arithmetic and answers with the draw. -/
theorem commandsChangeOnlyResponsesAndDraws : Obligations.CommandsChangeOnlyResponsesAndDraws := by
  unfold Obligations.CommandsChangeOnlyResponsesAndDraws
  intro i s t h
  obtain ⟨r, -, hnext⟩ | ⟨hnone, hnext⟩ := exec_answersResult i s
  · cases hnext.symm.trans h
    exact ⟨rfl, ⟨r, rfl⟩, .inl rfl⟩
  · cases hnext.symm.trans h
    exact ⟨rfl, ⟨_, rfl⟩, .inr ⟨isArith_of_resultWord_eq_none hnone, rfl⟩⟩

/-- Settles O12: an operation with a Boolean result answers a Boolean word, and draws nothing. -/
theorem booleanResultsAreZeroOrOne : Obligations.BooleanResultsAreZeroOrOne := by
  unfold Obligations.BooleanResultsAreZeroOrOne
  intro i s hbool
  have hword : ∃ v, resultWord i.op i.fmt i.opA i.opB = some (boolWord v) := by
    cases hop : i.op with
    | enc | dec | neg | add | sub | mul | div => simp [hop, givesBool] at hbool
    | ne => exact ⟨_, congrArg some (one_sub_boolWord _)⟩
    | isnz | eq | lt | le | gt | ge => exact ⟨_, rfl⟩
  obtain ⟨v, hv⟩ := hword
  obtain ⟨r, hr, hnext⟩ | ⟨hnone, -⟩ := exec_answersResult i s
  · exact ⟨r, hnext, Option.some_injective _ (hr.symm.trans hv) ▸ boolWord_cases v⟩
  · cases hv.symm.trans hnone

/-- Only an illegal command is answered with `err = 1`, and then `r = 0` (R251). -/
theorem responseTo_err_iff {q : Request} {z : Word} :
    (responseTo q z).err = true ↔ illegalWord blockParams q.cmd = true := by
  cases hd : decode blockParams q with
  | ok i => simp [responseTo_of_ok hd, exists_decode_iff.1 ⟨i, hd⟩]
  | error e =>
    have hillegal : illegalWord blockParams q.cmd ≠ false := fun hlegal => by
      obtain ⟨i, hi⟩ := exists_decode_iff.2 hlegal
      cases hi.symm.trans hd
    simpa [responseTo_of_error hd] using hillegal

theorem responseTo_r_of_err {q : Request} {z : Word} (h : (responseTo q z).err = true) : (responseTo q z).r = 0#32 := by
  cases hd : decode blockParams q with
  | ok i => simp [responseTo_of_ok hd] at h
  | error e => rw [responseTo_of_error hd]

/-- Settles O18. -/
theorem errorsCarryZeroAtReset : Obligations.ErrorsCarryZeroAtReset := by
  unfold Obligations.ErrorsCarryZeroAtReset
  intro resp hresp
  cases hresp

/-- Settles O17: an idle step adds no response, and the response to a request carries 0 when it is an error. -/
theorem stepKeepsErrorsCarryZero : Obligations.StepKeepsErrorsCarryZero := by
  unfold Obligations.StepKeepsErrorsCarryZero
  intro s t hs hstep
  cases hin : s.inflight with
  | nil =>
    cases (step_nil hin).symm.trans hstep
    exact hs
  | cons q rest =>
    obtain ⟨t', hnext, -, hresponses⟩ := step_delivers_responseTo hin
    cases hnext.symm.trans hstep
    intro resp hresp herr
    rw [hresponses, List.mem_append, List.mem_singleton] at hresp
    obtain hold | rfl := hresp
    · exact hs resp hold herr
    · exact responseTo_r_of_err herr

/-- A response that a request is given under some draw. -/
def IsResponseTo (q : Request) (resp : Response) : Prop := ∃ d, resp = responseTo q (arithNan ⟨[q], [], d⟩)

/-- A run of one step more goes on from the state after the first step. -/
theorem run_succ {s s' : State} (h : step s = .next s') (k : Nat) : core.run (k + 1) s = core.run k s' := by
  have hstep : core.step s = .next s' := h
  simp only [Host.Core.run, hstep]

/-- A run of as many steps as there are requests in flight answers them all, in order. -/
theorem run_answers (requests : List Request) : ∀ s : State, s.inflight = requests →
    ∃ t answers, core.run requests.length s = .next t ∧ t.inflight = [] ∧ t.responses = s.responses ++ answers ∧
      List.Forall₂ IsResponseTo requests answers := by
  induction requests with
  | nil =>
    intro s hs
    exact ⟨s, [], rfl, hs, (List.append_nil _).symm, .nil⟩
  | cons q rest ih =>
    intro s hs
    obtain ⟨s', hstep, hrest, hresponses⟩ := step_delivers_responseTo hs
    obtain ⟨t, answers, hrun, hdone, hanswers, hall⟩ := ih s' hrest
    refine ⟨t, responseTo q (arithNan s) :: answers, ?_, hdone, ?_, .cons ⟨s.draws, ?_⟩ hall⟩
    · exact (run_succ hstep rest.length).trans hrun
    · rw [hanswers, hresponses, List.append_assoc, List.singleton_append]
    · exact congrArg (responseTo q) (arithNan_congr rfl)

/-- A request alone in flight is given the response by one step. -/
theorem step_alone_of_isResponseTo {q : Request} {resp : Response} (h : IsResponseTo q resp) :
    ∃ d d', step ⟨[q], [], d⟩ = .next ⟨[], [resp], d'⟩ := by
  obtain ⟨d, rfl⟩ := h
  obtain ⟨⟨inflight, responses, d'⟩, hstep, hrest, hresponses⟩ := step_delivers_responseTo (s := ⟨[q], [], d⟩) rfl
  cases hrest
  cases hresponses
  exact ⟨d, d', hstep⟩

/-- Settles O16: each step of the run answers the oldest request. -/
theorem runAnswersEveryRequestInOrder : Obligations.RunAnswersEveryRequestInOrder := by
  unfold Obligations.RunAnswersEveryRequestInOrder
  intro s
  obtain ⟨t, answers, hrun, hdone, hresponses, hall⟩ := run_answers s.inflight s rfl
  exact ⟨t, answers, hrun, hdone, hresponses, hall.imp fun _ _ => step_alone_of_isResponseTo⟩

/-- Some answer is an error exactly when some request is illegal. -/
theorem any_err_iff {requests : List Request} {answers : List Response}
    (h : List.Forall₂ IsResponseTo requests answers) :
    answers.any (·.err) = true ↔ ∃ q ∈ requests, illegalWord blockParams q.cmd = true := by
  induction h with
  | nil => simp
  | cons hresp _ ih =>
    obtain ⟨d, rfl⟩ := hresp
    simp only [List.any_cons, Bool.or_eq_true, ih, responseTo_err_iff, List.mem_cons, exists_eq_or_imp]

/-- Settles O19: the run's new responses are the answers to its requests, one of them an error exactly when one of those is illegal. -/
theorem runFaultsExactlyOnIllegalCommands : Obligations.RunFaultsExactlyOnIllegalCommands := by
  unfold Obligations.RunFaultsExactlyOnIllegalCommands
  intro s t hrun
  obtain ⟨t', answers, hrun', hdone, hresponses, hall⟩ := run_answers s.inflight s rfl
  cases hrun'.symm.trans hrun
  refine ⟨by rw [runOver, hdone]; rfl, ?_⟩
  rw [faulted, hresponses, List.any_append, Bool.or_eq_true, any_err_iff hall, faulted]

end Sys2Proof.Machine
end

section
/-! PROOFS. The format table (R21 to R24), and the fields of a code: the masked code is its sign, exponent field and mantissa
field, and packing gives it back (R61, R66). -/

namespace Sys2Proof.Machine

/-- Settles O20: the rows are those of `formatSpec`, and a select number selects its own format. -/
theorem formatTableAndWidthInvariant : Obligations.FormatTableAndWidthInvariant := by
  unfold Obligations.FormatTableAndWidthInvariant
  refine ⟨rfl, rfl, rfl, rfl, rfl, rfl, rfl, fmtOfField_fmtCode, rfl, fun f => ?_⟩
  cases f <;> rfl

/-- Settles O21. -/
theorem derivedConstants : Obligations.DerivedConstants := by
  unfold Obligations.DerivedConstants
  exact ⟨rfl, rfl, rfl, rfl, rfl, rfl, rfl⟩

/-- A code without its sign, as a number: exponent field and mantissa field in one. -/
def codeNum (f : Format) (c : Word) : Nat := codeExp f c * 2 ^ (formatSpec f).mantBits + codeMant f c

theorem toNat_codeOperand_eq_mod (f : Format) (c : Word) :
    (codeOperand f c).toNat = c.toNat % 2 ^ (formatSpec f).totalBits := by
  have hmask : (2 ^ (formatSpec f).totalBits - 1) % 2 ^ 32 = 2 ^ (formatSpec f).totalBits - 1 := by cases f <;> rfl
  rw [codeOperand, wmask, BitVec.toNat_and, BitVec.toNat_ofNat, hmask, Nat.and_two_pow_sub_one_eq_mod]

theorem codeExp_eq (f : Format) (c : Word) :
    codeExp f c = c.toNat / 2 ^ (formatSpec f).mantBits % 2 ^ (formatSpec f).expBits := by
  rw [codeExp, BitVec.extractLsb'_toNat, Nat.shiftRight_eq_div_pow]

theorem codeMant_eq (f : Format) (c : Word) : codeMant f c = c.toNat % 2 ^ (formatSpec f).mantBits := by
  rw [codeMant, BitVec.extractLsb'_toNat, Nat.shiftRight_zero]

theorem toNat_codeSign (f : Format) (c : Word) :
    (codeSign f c).toNat = (formatSpec f).hasSign.toNat * (c.toNat / 2 ^ ((formatSpec f).totalBits - 1) % 2) := by
  rw [codeSign, BitVec.getLsbD, ← Nat.toNat_testBit]
  cases (formatSpec f).hasSign <;> simp

/-- A masked code is its sign and its number. -/
theorem toNat_codeOperand (f : Format) (c : Word) :
    (codeOperand f c).toNat =
      (codeSign f c).toNat * 2 ^ ((formatSpec f).expBits + (formatSpec f).mantBits) + codeNum f c := by
  rw [toNat_codeOperand_eq_mod, toNat_codeSign, codeNum, codeExp_eq, codeMant_eq]
  cases f <;> simp only [formatSpec, Bool.toNat_true, Bool.toNat_false] <;> omega

@[simp] theorem codeExp_codeOperand (f : Format) (c : Word) : codeExp f (codeOperand f c) = codeExp f c := by
  rw [codeExp_eq, codeExp_eq, toNat_codeOperand_eq_mod]
  cases f <;> simp only [formatSpec] <;> omega

@[simp] theorem codeMant_codeOperand (f : Format) (c : Word) : codeMant f (codeOperand f c) = codeMant f c := by
  rw [codeMant_eq, codeMant_eq, toNat_codeOperand_eq_mod]
  cases f <;> simp only [formatSpec] <;> omega

@[simp] theorem codeSign_codeOperand (f : Format) (c : Word) : codeSign f (codeOperand f c) = codeSign f c := by
  have htop : (formatSpec f).hasSign = true → (wmask f).getLsbD ((formatSpec f).totalBits - 1) = true := by
    cases f <;> decide
  rw [codeSign, codeSign, codeOperand, BitVec.getLsbD_and]
  cases hsign : (formatSpec f).hasSign with
  | false => rfl
  | true => rw [htop hsign, Bool.and_true]

@[simp] theorem codeNum_codeOperand (f : Format) (c : Word) : codeNum f (codeOperand f c) = codeNum f c := by
  simp only [codeNum, codeExp_codeOperand, codeMant_codeOperand]

theorem codeNum_lt (f : Format) (c : Word) :
    codeNum f c < 2 ^ ((formatSpec f).expBits + (formatSpec f).mantBits) := by
  have hx := codeExp_lt f c
  have hm := codeMant_lt f c
  rw [codeNum, pow_add]
  nlinarith

/-- A shift that loses no bit is a product. -/
theorem toNat_shiftLeft_ofNat {a i : Nat} (h : a * 2 ^ i < 2 ^ 32) : (BitVec.ofNat 32 a <<< i).toNat = 2 ^ i * a := by
  have ha : a < 2 ^ 32 := (Nat.le_mul_of_pos_right a (Nat.two_pow_pos i)).trans_lt h
  rw [BitVec.toNat_shiftLeft, BitVec.toNat_ofNat, Nat.mod_eq_of_lt ha, Nat.shiftLeft_eq, Nat.mod_eq_of_lt h, Nat.mul_comm]

/-- A packed code, as a number. -/
theorem toNat_packCode {f : Format} (s : Bool) {x m : Nat} (hx : x < 2 ^ (formatSpec f).expBits)
    (hm : m < 2 ^ (formatSpec f).mantBits) :
    (packCode f s x m).toNat = s.toNat * 2 ^ ((formatSpec f).expBits + (formatSpec f).mantBits) +
      (x * 2 ^ (formatSpec f).mantBits + m) := by
  have hbits : (formatSpec f).expBits + (formatSpec f).mantBits ≤ 15 := by cases f <;> decide
  have hwidth : 2 ^ ((formatSpec f).expBits + (formatSpec f).mantBits) ≤ 2 ^ 15 := Nat.pow_le_pow_right two_pos hbits
  have hlow : x * 2 ^ (formatSpec f).mantBits + m < 2 ^ ((formatSpec f).expBits + (formatSpec f).mantBits) := by
    rw [pow_add]
    nlinarith
  have hsign : s.toNat * 2 ^ ((formatSpec f).expBits + (formatSpec f).mantBits) ≤ 2 ^ 15 := by
    have := Bool.toNat_le s
    nlinarith
  have hx' : x * 2 ^ (formatSpec f).mantBits < 2 ^ 32 := by omega
  have hs' : s.toNat * 2 ^ ((formatSpec f).expBits + (formatSpec f).mantBits) < 2 ^ 32 := by omega
  rw [packCode, BitVec.or_assoc, BitVec.toNat_or, BitVec.toNat_or, toNat_shiftLeft_ofNat hs', toNat_shiftLeft_ofNat hx',
    BitVec.toNat_ofNat, Nat.mod_eq_of_lt (by omega : m < 2 ^ 32), ← Nat.two_pow_add_eq_or_of_lt hm,
    ← Nat.two_pow_add_eq_or_of_lt (by rwa [Nat.mul_comm _ x])]
  ring

/-- A masked code is packed from its own fields. -/
theorem packCode_codeFields (f : Format) (c : Word) :
    packCode f (codeSign f c) (codeExp f c) (codeMant f c) = codeOperand f c := by
  apply BitVec.eq_of_toNat_eq
  rw [toNat_packCode _ (codeExp_lt f c) (codeMant_lt f c), toNat_codeOperand, codeNum]

section PackedFields

variable {f : Format} {s : Bool} {x m : Nat}

theorem codeExp_packCode (hx : x < 2 ^ (formatSpec f).expBits) (hm : m < 2 ^ (formatSpec f).mantBits) :
    codeExp f (packCode f s x m) = x := by
  rw [codeExp_eq, toNat_packCode s hx hm]
  cases f <;> simp only [formatSpec] at hx hm ⊢ <;> omega

theorem codeMant_packCode (hx : x < 2 ^ (formatSpec f).expBits) (hm : m < 2 ^ (formatSpec f).mantBits) :
    codeMant f (packCode f s x m) = m := by
  rw [codeMant_eq, toNat_packCode s hx hm]
  cases f <;> simp only [formatSpec] at hx hm ⊢ <;> omega

theorem codeSign_packCode (hsign : (formatSpec f).hasSign = true) (hx : x < 2 ^ (formatSpec f).expBits)
    (hm : m < 2 ^ (formatSpec f).mantBits) : codeSign f (packCode f s x m) = s := by
  have hbit : (packCode f s x m).toNat / 2 ^ ((formatSpec f).totalBits - 1) % 2 = s.toNat := by
    have hle := Bool.toNat_le s
    rw [toNat_packCode s hx hm]
    cases f with
    | e8m0 => cases hsign
    | e5m2 | e4m3fn | bf16 | e2m3fn | e3m2fn | e2m1fn =>
      simp only [formatSpec] at hx hm ⊢
      omega
  rw [codeSign, hsign, Bool.true_and, BitVec.getLsbD, Nat.testBit_eq_decide_div_mod_eq, hbit]
  cases s <;> rfl

/-- A packed code has no bit above the format's width (R66). -/
theorem codeOperand_packCode (hsign : (formatSpec f).hasSign = true) (hx : x < 2 ^ (formatSpec f).expBits)
    (hm : m < 2 ^ (formatSpec f).mantBits) : codeOperand f (packCode f s x m) = packCode f s x m := by
  rw [← packCode_codeFields, codeSign_packCode hsign hx hm, codeExp_packCode hx hm, codeMant_packCode hx hm]

end PackedFields

/-- The sign bit lies in neither field of the number. -/
theorem smask_fields (f : Format) : codeExp f (smask f) = 0 ∧ codeMant f (smask f) = 0 := by
  cases f <;> decide

/-- Flipping the sign bit of a code flips its sign and leaves its exponent and mantissa fields. -/
theorem codeFields_xor_smask {f : Format} (hsign : (formatSpec f).hasSign = true) (c : Word) :
    codeSign f (c ^^^ smask f) = !codeSign f c ∧ codeExp f (c ^^^ smask f) = codeExp f c ∧
      codeMant f (c ^^^ smask f) = codeMant f c := by
  obtain ⟨hx, hm⟩ := smask_fields f
  have htop : (smask f).getLsbD ((formatSpec f).totalBits - 1) = true := by
    cases f with
    | e8m0 => cases hsign
    | e5m2 | e4m3fn | bf16 | e2m3fn | e3m2fn | e2m1fn => decide
  refine ⟨?_, ?_, ?_⟩
  · simp only [codeSign, hsign, BitVec.getLsbD_xor, htop, Bool.true_and, Bool.xor_true]
  · rw [codeExp, codeExp, BitVec.extractLsb'_xor, BitVec.toNat_xor, ← codeExp, ← codeExp, hx, Nat.xor_zero]
  · rw [codeMant, codeMant, BitVec.extractLsb'_xor, BitVec.toNat_xor, ← codeMant, ← codeMant, hm, Nat.xor_zero]

/-- The mask and the sign flip commute: the sign bit lies inside the code. -/
theorem codeOperand_xor_smask (f : Format) (c : Word) : codeOperand f (c ^^^ smask f) = codeOperand f c ^^^ smask f := by
  have hdistrib : (c ^^^ smask f) &&& wmask f = (c &&& wmask f) ^^^ (smask f &&& wmask f) := by
    ext i hi
    simp only [BitVec.getElem_and, BitVec.getElem_xor, Bool.and_xor_distrib_right]
  rw [codeOperand, codeOperand, hdistrib, smask_and_wmask]

/-- Codes of opposite signs differ by the sign bit. -/
theorem packCode_not {f : Format} (hsign : (formatSpec f).hasSign = true) (s : Bool) {x m : Nat}
    (hx : x < 2 ^ (formatSpec f).expBits) (hm : m < 2 ^ (formatSpec f).mantBits) :
    packCode f (!s) x m = packCode f s x m ^^^ smask f := by
  obtain ⟨hsign', hexp, hmant⟩ := codeFields_xor_smask hsign (packCode f s x m)
  rw [codeSign_packCode hsign hx hm] at hsign'
  rw [codeExp_packCode hx hm] at hexp
  rw [codeMant_packCode hx hm] at hmant
  rw [← codeOperand_packCode (s := s) hsign hx hm, ← codeOperand_xor_smask, ← packCode_codeFields, hsign', hexp, hmant]

end Sys2Proof.Machine
end

section
/-! PROOFS. The grid of a binary format: the magnitudes of its nonnegative patterns, in units of the least one, rise with the
pattern. One grid serves float32, float64 and the shared codes (R14, R162). -/

namespace Sys2Proof.Machine

open Sys2Proof.Exact

/-- The magnitude of the `n`-th nonnegative pattern of a format with `M` fraction bits, in units of its least magnitude. -/
def gridVal (M n : Nat) : Nat := if n / 2 ^ M = 0 then n % 2 ^ M else (2 ^ M + n % 2 ^ M) * 2 ^ (n / 2 ^ M - 1)

theorem gridMag_eq_gridVal (n : Nat) : gridMag n = gridVal 23 n := rfl

/-- The pattern `shift * 2^M + sig` has magnitude `sig * 2^shift`, for a normal significand, or with no shift. -/
theorem gridVal_of_sig {M shift sig : Nat} (hs : sig ≤ 2 ^ (M + 1)) (hn : shift = 0 ∨ 2 ^ M ≤ sig) :
    gridVal M (shift * 2 ^ M + sig) = sig * 2 ^ shift := by
  have hpos : 0 < 2 ^ M := Nat.two_pow_pos M
  rw [pow_succ] at hs
  rw [gridVal, Nat.add_comm, Nat.add_mul_div_right _ _ hpos, Nat.add_mul_mod_self_right]
  obtain h | ⟨h, h'⟩ | rfl : sig < 2 ^ M ∨ (2 ^ M ≤ sig ∧ sig < 2 ^ M * 2) ∨ sig = 2 ^ M * 2 := by omega
  · obtain rfl : shift = 0 := by omega
    rw [Nat.div_eq_of_lt h, Nat.mod_eq_of_lt h]
    simp
  · have hdiv : sig / 2 ^ M = 1 := by
      rw [Nat.div_eq_iff hpos]
      omega
    have hmod : sig % 2 ^ M = sig - 2 ^ M := by
      rw [Nat.mod_eq_sub_mod h, Nat.mod_eq_of_lt (by omega)]
    rw [hdiv, hmod, if_neg (by omega), Nat.add_sub_cancel_left, Nat.add_sub_cancel' h]
  · rw [Nat.mul_div_cancel_left _ hpos, Nat.mul_mod_right, if_neg (by omega), Nat.add_zero,
      show 2 + shift - 1 = shift + 1 by omega, pow_succ]
    ring

/-- Every pattern is a shift and a significand, normal unless there is no shift. -/
theorem exists_sig (M n : Nat) :
    ∃ shift sig, n = shift * 2 ^ M + sig ∧ sig < 2 ^ (M + 1) ∧ (shift = 0 ∨ 2 ^ M ≤ sig) := by
  have hpos : 0 < 2 ^ M := Nat.two_pow_pos M
  have hdm := Nat.div_add_mod' n (2 ^ M)
  have hmod := Nat.mod_lt n hpos
  rw [pow_succ]
  obtain h | ⟨k, hk⟩ : n / 2 ^ M = 0 ∨ ∃ k, n / 2 ^ M = k + 1 := by
    cases n / 2 ^ M with
    | zero => exact .inl rfl
    | succ k => exact .inr ⟨k, rfl⟩
  · rw [h] at hdm
    exact ⟨0, n % 2 ^ M, by omega, by omega, .inl rfl⟩
  · rw [hk, add_mul] at hdm
    exact ⟨k, 2 ^ M + n % 2 ^ M, by omega, by omega, .inr (by omega)⟩

theorem gridVal_lt_succ (M n : Nat) : gridVal M n < gridVal M (n + 1) := by
  obtain ⟨shift, sig, rfl, hsig, hnormal⟩ := exists_sig M n
  rw [add_assoc, gridVal_of_sig hsig.le hnormal, gridVal_of_sig hsig (hnormal.imp_right fun h => by omega)]
  exact Nat.mul_lt_mul_of_pos_right (Nat.lt_succ_self sig) (Nat.two_pow_pos shift)

theorem gridVal_strictMono (M : Nat) : StrictMono (gridVal M) := strictMono_nat_of_lt_succ (gridVal_lt_succ M)

theorem gridMag_strictMono : StrictMono gridMag := gridVal_strictMono 23

/-- A code of the shared algorithms has the magnitude of its number on the grid of its mantissa bits, in units of the
format's step. -/
theorem codeMag_eq_gridVal {f : Format} (h : isStd f = true) {x m : Nat} (hm : m < 2 ^ (formatSpec f).mantBits) :
    codeMag f x m = gridVal (formatSpec f).mantBits (x * 2 ^ (formatSpec f).mantBits + m) *
      2 ^ (150 - (formatSpec f).bias - (formatSpec f).mantBits) := by
  obtain ⟨hM, -, hbias⟩ := isStd_bounds h
  have hpos : 0 < 2 ^ (formatSpec f).mantBits := Nat.two_pow_pos _
  have hdiv : (x * 2 ^ (formatSpec f).mantBits + m) / 2 ^ (formatSpec f).mantBits = x := by
    rw [Nat.add_comm, Nat.add_mul_div_right _ _ hpos, Nat.div_eq_of_lt hm, Nat.zero_add]
  have hmod : (x * 2 ^ (formatSpec f).mantBits + m) % 2 ^ (formatSpec f).mantBits = m := by
    rw [Nat.add_comm, Nat.add_mul_mod_self_right, Nat.mod_eq_of_lt hm]
  rw [gridVal, hdiv, hmod]
  by_cases h0 : x = 0
  · rw [h0, if_pos rfl, codeMag_subnormal]
  · rw [if_neg h0, codeMag_normal f h0, mul_assoc, ← pow_add]
    congr 2
    omega

/-- The number of a float32 pattern without its sign. -/
def absNum (w : Word) : Nat := w.toNat % 2 ^ 31

theorem absNum_eq (w : Word) : absNum w = f32Exp w * 2 ^ 23 + f32Frac w := by
  have h := toNat_eq_fields w
  have he := f32Exp_lt w
  have hf := f32Frac_lt w
  have hs := Bool.toNat_le (f32Sign w)
  rw [absNum]
  omega

theorem f32Mag_eq_gridMag_absNum (w : Word) : f32Mag (f32Exp w) (f32Frac w) = gridMag (absNum w) :=
  f32Mag_eq_gridMag w

/-- The sign and the number of a pattern are the pattern. -/
theorem eq_of_sign_absNum {w w' : Word} (hs : f32Sign w = f32Sign w') (hn : absNum w = absNum w') : w = w' := by
  rw [absNum_eq, absNum_eq] at hn
  have hf := f32Frac_lt w
  have hf' := f32Frac_lt w'
  exact eq_of_fields hs (by omega) (by omega)

/-- The exact value of a pattern is its sign and its place on the grid. -/
theorem f32Rat_eq_gridMag (w : Word) :
    f32Rat w = (if f32Sign w then -1 else 1) * ((gridMag (absNum w) : ℚ) * 2 ^ (-149 : ℤ)) := by
  rw [f32Rat_eq_mag, f32Mag_eq_gridMag_absNum]

theorem abs_f32Rat_eq_gridMag (w : Word) : |f32Rat w| = (gridMag (absNum w) : ℚ) * 2 ^ (-149 : ℤ) := by
  rw [abs_f32Rat, f32Mag_eq_gridMag_absNum]

/-- Magnitudes are ordered as the patterns are. -/
theorem abs_f32Rat_le_iff {w w' : Word} : |f32Rat w| ≤ |f32Rat w'| ↔ absNum w ≤ absNum w' := by
  rw [abs_f32Rat_eq_gridMag, abs_f32Rat_eq_gridMag, mul_le_mul_iff_left₀ (by positivity), Nat.cast_le,
    gridMag_strictMono.le_iff_le]

theorem abs_f32Rat_inj {w w' : Word} : |f32Rat w| = |f32Rat w'| ↔ absNum w = absNum w' := by
  rw [le_antisymm_iff, abs_f32Rat_le_iff, abs_f32Rat_le_iff, ← le_antisymm_iff]

/-- Settles O34: the magnitude of the value fixes the pattern's place on the grid. -/
theorem signAndValueDetermineThePattern : Obligations.SignAndValueDetermineThePattern := by
  unfold Obligations.SignAndValueDetermineThePattern
  intro w w' _ _ hs hvalue
  exact eq_of_sign_absNum hs (abs_f32Rat_inj.1 (congrArg abs hvalue))

end Sys2Proof.Machine
end

section
/-! PROOFS. Binary32 arithmetic: the rounding relation leaves no choice, and the four operations meet IEEE-754's relations
(R203 to R209). -/

namespace Sys2Proof.Machine

open Sys2Proof.Safety Sys2Proof.Exact

/-- The pattern of a sign and a number below `2^31`. -/
theorem sign_absNum_of_sign_or (s : Bool) {n : Nat} (hn : n < 2 ^ 31) :
    f32Sign (f32SignBit s ||| BitVec.ofNat 32 n) = s ∧ absNum (f32SignBit s ||| BitVec.ofNat 32 n) = n := by
  obtain ⟨hs, he, hf⟩ := fields_of_sign_or s hn
  refine ⟨hs, ?_⟩
  rw [absNum_eq, he, hf]
  omega

/-- The finite patterns are those below the infinity pattern. -/
theorem finite32_iff_absNum (w : Word) : Finite32 w ↔ absNum w < 255 * 2 ^ 23 := by
  have he := f32Exp_lt w
  have hf := f32Frac_lt w
  rw [Finite32, absNum_eq]
  omega

theorem getLsbD_zero_iff (w : Word) : w.getLsbD 0 = false ↔ absNum w % 2 = 0 := by
  rw [BitVec.getLsbD, Nat.testBit_eq_decide_div_mod_eq, absNum]
  simp only [decide_eq_false_iff_not]
  omega

/-- A number strictly between two that are equally far from `v` is nearer. -/
theorem abs_sub_lt_of_between {v a b w : ℚ} (h : |v - a| = |v - b|) (ha : a < w) (hb : w < b) : |v - w| < |v - a| := by
  have hmid : v - a = b - v := by
    obtain heq | heq := abs_eq_abs.1 h
    · linarith
    · linarith
  rw [abs_of_pos (by linarith : 0 < v - a), abs_lt]
  constructor <;> linarith

/-- Two patterns of one sign, neither next to the other, leave a finite pattern strictly between their values. -/
theorem exists_between {z z' : Word} (hs : f32Sign z = f32Sign z') (hz' : Finite32 z') (h : absNum z + 1 < absNum z') :
    ∃ w, Finite32 w ∧ (f32Rat z < f32Rat w ∧ f32Rat w < f32Rat z' ∨ f32Rat z' < f32Rat w ∧ f32Rat w < f32Rat z) := by
  rw [finite32_iff_absNum] at hz'
  obtain ⟨w, hsign, hnum⟩ : ∃ w, f32Sign w = f32Sign z ∧ absNum w = absNum z + 1 :=
    ⟨_, sign_absNum_of_sign_or (f32Sign z) (by omega)⟩
  refine ⟨w, (finite32_iff_absNum w).2 (by omega), ?_⟩
  have hc : (0 : ℚ) < 2 ^ (-149 : ℤ) := by positivity
  have hlow : (gridMag (absNum z) : ℚ) < gridMag (absNum z + 1) := by
    exact_mod_cast gridMag_strictMono (Nat.lt_succ_self _)
  have hhigh : (gridMag (absNum z + 1) : ℚ) < gridMag (absNum z') := by exact_mod_cast gridMag_strictMono h
  rw [f32Rat_eq_gridMag z, f32Rat_eq_gridMag z', f32Rat_eq_gridMag w, hsign, hnum, ← hs]
  cases f32Sign z with
  | false =>
    simp only [Bool.false_eq_true, if_false, one_mul]
    exact .inl ⟨mul_lt_mul_of_pos_right hlow hc, mul_lt_mul_of_pos_right hhigh hc⟩
  | true =>
    simp only [if_true, neg_one_mul, neg_lt_neg_iff]
    exact .inr ⟨mul_lt_mul_of_pos_right hhigh hc, mul_lt_mul_of_pos_right hlow hc⟩

/-- Of two nearest patterns of one sign, the second is not the greater: both would be even, and a pattern between them nearer. -/
theorem absNum_le_of_nearest {v : ℚ} {z z' : Word} (hs : f32Sign z = f32Sign z') (hz : Finite32 z) (hz' : Finite32 z')
    (hnear : ∀ w, Finite32 w → |v - f32Rat z| ≤ |v - f32Rat w| ∧
      (|v - f32Rat z| = |v - f32Rat w| → f32Rat w ≠ f32Rat z → z.getLsbD 0 = false))
    (hnear' : ∀ w, Finite32 w → |v - f32Rat z'| ≤ |v - f32Rat w| ∧
      (|v - f32Rat z'| = |v - f32Rat w| → f32Rat w ≠ f32Rat z' → z'.getLsbD 0 = false)) : absNum z' ≤ absNum z := by
  by_contra! hlt
  have hdist : |v - f32Rat z| = |v - f32Rat z'| := le_antisymm (hnear z' hz').1 (hnear' z hz).1
  have hne : f32Rat z' ≠ f32Rat z := fun heq => hlt.ne' (abs_f32Rat_inj.1 (congrArg abs heq))
  have heven := (getLsbD_zero_iff z).1 ((hnear z' hz').2 hdist hne)
  have heven' := (getLsbD_zero_iff z').1 ((hnear' z hz).2 hdist.symm hne.symm)
  obtain ⟨w, hw, ⟨ha, hb⟩ | ⟨ha, hb⟩⟩ := exists_between hs hz' (by omega)
  · exact (abs_sub_lt_of_between hdist ha hb).not_ge (hnear w hw).1
  · exact (abs_sub_lt_of_between hdist.symm ha hb).not_ge (hnear' w hw).1

/-- Settles O51: past the threshold there is one infinity of the sign; below it neither of two nearest patterns is the greater. -/
theorem roundingDeterminesThePattern : Obligations.RoundingDeterminesThePattern := by
  unfold Obligations.RoundingDeterminesThePattern RoundsTo
  intro v neg z z' ⟨hs, hz⟩ ⟨hs', hz'⟩
  have hsign : f32Sign z = f32Sign z' := hs.trans hs'.symm
  split at hz
  case isTrue hover =>
    rw [if_pos hover, isInf32_iff] at hz'
    rw [isInf32_iff] at hz
    exact eq_of_fields hsign (hz.1.trans hz'.1.symm) (hz.2.trans hz'.2.symm)
  case isFalse hover =>
    rw [if_neg hover] at hz'
    exact eq_of_sign_absNum hsign (le_antisymm (absNum_le_of_nearest hsign.symm hz'.1 hz.1 hz'.2 hz.2)
      (absNum_le_of_nearest hsign hz.1 hz'.1 hz.2 hz'.2))

/-- The one infinity of each sign. -/
theorem eq_f32Inf {w : Word} (h : isInf32 w = true) : w = f32Inf (f32Sign w) := by
  obtain ⟨hexp, hfrac⟩ := (isInf32_iff w).1 h
  obtain ⟨hs, he, hf⟩ := fields_of_sign_or (f32Sign w) (show 0x7F800000 < 2 ^ 31 by decide)
  exact eq_of_fields hs.symm (hexp.trans he.symm) (hfrac.trans hf.symm)

/-- The three classes of patterns (R60), each with what its value says. -/
theorem f32_classes (w : Word) :
    (f32Value w = .nan ∧ isNaN32 w = true) ∨
    (f32Value w = .inf (f32Sign w) ∧ isNaN32 w = false ∧ isInf32 w = true ∧ ¬ Finite32 w) ∨
    (f32Value w = .fin (f32Sign w) (gridMag (absNum w)) ∧ isNaN32 w = false ∧ isInf32 w = false ∧ Finite32 w) := by
  rw [← f32Mag_eq_gridMag_absNum]
  obtain ⟨hclass, hvalue⟩ | ⟨hclass, hvalue⟩ | ⟨hclass, hvalue⟩ := f32Value_cases w
  · exact .inl ⟨hvalue, hclass⟩
  · obtain ⟨hexp, hfrac⟩ := (isInf32_iff w).1 hclass
    exact .inr (.inl ⟨hvalue, by simp [isNaN32, hfrac], hclass, not_not.2 hexp⟩)
  · exact .inr (.inr ⟨hvalue, by simp [isNaN32, hclass], by simp [isInf32, hclass], hclass⟩)

/-- The exact value of a finite pattern is its signed magnitude, in units of `2^-149`. -/
theorem f32Rat_eq_signedMag (w : Word) :
    f32Rat w = (signedMag (f32Sign w) (gridMag (absNum w)) : ℚ) * 2 ^ (-149 : ℤ) := by
  rw [f32Rat_eq_gridMag, signedMag]
  cases f32Sign w <;> simp

theorem f32Rat_eq_zero_iff (w : Word) : f32Rat w = 0 ↔ gridMag (absNum w) = 0 := by
  rw [← abs_eq_zero, abs_f32Rat_eq_gridMag, mul_eq_zero_iff_right (by positivity), Nat.cast_eq_zero]

/-- A signed zero is the rounding of zero. -/
theorem f32SignBit_roundsTo (neg : Bool) : RoundsTo 0 neg (f32SignBit neg) := by
  have h := f32Round_roundsTo neg 0 Nat.one_pos
  have hround : f32Round neg 0 1 = f32SignBit neg := by cases neg <;> decide
  rw [hround] at h
  simpa using h

/-- An integer number of units of `2^-149`, rounded with its own sign. -/
theorem f32Round_int_roundsTo (z : ℤ) : RoundsTo (z * 2 ^ (-149 : ℤ)) (decide (z < 0)) (f32Round (z < 0) z.natAbs 1) := by
  have h := f32Round_roundsTo (z < 0) z.natAbs Nat.one_pos
  have hvalue : (if decide (z < 0) = true then (-1 : ℚ) else 1) * ((z.natAbs : ℚ) / (1 : ℕ) * 2 ^ (-149 : ℤ)) =
      z * 2 ^ (-149 : ℤ) := by
    rw [Nat.cast_one, div_one, ← mul_assoc, Nat.cast_natAbs]
    congr 1
    by_cases hz : z < 0
    · simp [hz, abs_of_neg hz]
    · simp [hz, abs_of_nonneg (not_lt.1 hz)]
  rwa [hvalue] at h

/-- The sum of two finite values rounds as R204 says, a zero sum with the sign of the rule. -/
theorem addFinite_roundsTo (s t : Bool) (m n : Nat) {v : ℚ}
    (hv : v = ((signedMag s m + signedMag t n : ℤ) : ℚ) * 2 ^ (-149 : ℤ)) :
    ∃ z, f32AddValue (.fin s m) (.fin t n) = some z ∧ RoundsTo v (signOr (s && t) v) z := by
  simp only [f32AddValue]
  generalize signedMag s m + signedMag t n = k at hv ⊢
  subst hv
  by_cases hk : k = 0
  · subst hk
    exact ⟨_, if_pos rfl, by simpa [signOr] using f32SignBit_roundsTo (s && t)⟩
  · have hsign : signOr (s && t) (k * 2 ^ (-149 : ℤ)) = decide (k < 0) := by
      have hc : (0 : ℚ) < 2 ^ (-149 : ℤ) := by positivity
      rw [signOr, if_neg (mul_ne_zero (Int.cast_ne_zero.2 hk) hc.ne')]
      exact decide_eq_decide.2 ⟨fun h => Int.cast_lt_zero.1 (neg_of_mul_neg_left h hc.le),
        fun h => mul_neg_of_neg_of_pos (Int.cast_lt_zero.2 h) hc⟩
    rw [hsign]
    exact ⟨_, if_neg hk, f32Round_int_roundsTo k⟩

theorem f32AddValue_nan_right (x : F32Value) : f32AddValue x .nan = none := by cases x <;> rfl
theorem f32MulValue_nan_right (x : F32Value) : f32MulValue x .nan = none := by cases x <;> rfl
theorem f32DivValue_nan_right (x : F32Value) : f32DivValue x .nan = none := by cases x <;> rfl

/-- `f32Add` is an IEEE-754 sum: the classes of the operands decide which clause of R204 applies. -/
theorem f32Add_isF32Sum (x y : Word) : IsF32Sum x y (f32Add x y) := by
  unfold f32Add
  obtain ⟨hx, hxnan⟩ | ⟨hx, hxnan, hxinf, hxfin⟩ | ⟨hx, hxnan, hxinf, hxfin⟩ := f32_classes x
  · rw [hx]
    exact .inl hxnan
  all_goals
    obtain ⟨hy, hynan⟩ | ⟨hy, hynan, hyinf, hyfin⟩ | ⟨hy, hynan, hyinf, hyfin⟩ := f32_classes y
    · rw [hy, f32AddValue_nan_right]
      exact .inr (.inl hynan)
  · rw [hx, hy, f32AddValue]
    by_cases hs : f32Sign x = f32Sign y
    · rw [if_pos hs]
      exact ⟨hxnan, hynan, fun _ _ => hs, fun _ => (eq_f32Inf hxinf).symm, fun _ => hs ▸ (eq_f32Inf hyinf).symm,
        fun h => absurd h hxfin⟩
    · rw [if_neg hs]
      exact .inr (.inr ⟨hxinf, hyinf, hs⟩)
  · rw [hx, hy]
    exact ⟨hxnan, hynan, by simp [hyinf], fun _ => (eq_f32Inf hxinf).symm, by simp [hyinf], fun h => absurd h hxfin⟩
  · rw [hx, hy]
    exact ⟨hxnan, hynan, by simp [hxinf], by simp [hxinf], fun _ => (eq_f32Inf hyinf).symm, fun _ h => absurd h hyfin⟩
  · obtain ⟨z, hz, hround⟩ := addFinite_roundsTo (f32Sign x) (f32Sign y) (gridMag (absNum x)) (gridMag (absNum y))
      (v := f32Rat x + f32Rat y) (by rw [f32Rat_eq_signedMag, f32Rat_eq_signedMag]; push_cast; ring)
    rw [hx, hy, hz]
    exact ⟨hxnan, hynan, by simp [hxinf], by simp [hxinf], by simp [hyinf], fun _ _ => hround⟩

/-- Flipping bit 31 of a pattern flips its sign and leaves its exponent and fraction. -/
theorem fields_xor_signBit (w : Word) : f32Sign (w ^^^ 0x80000000#32) = (!f32Sign w) ∧
    f32Exp (w ^^^ 0x80000000#32) = f32Exp w ∧ f32Frac (w ^^^ 0x80000000#32) = f32Frac w := by
  have hexp : (0x80000000#32).extractLsb' 23 8 = 0#8 := by decide
  have hfrac : (0x80000000#32).extractLsb' 0 23 = 0#23 := by decide
  refine ⟨by simp [f32Sign], ?_, ?_⟩
  · rw [f32Exp, f32Exp, BitVec.extractLsb'_xor, hexp, BitVec.xor_zero]
  · rw [f32Frac, f32Frac, BitVec.extractLsb'_xor, hfrac, BitVec.xor_zero]

theorem f32Value_xor_signBit (w : Word) : f32Value (w ^^^ 0x80000000#32) = f32NegValue (f32Value w) := by
  obtain ⟨hs, he, hf⟩ := fields_xor_signBit w
  simp only [f32Value, hs, he, hf]
  split
  · split <;> rfl
  · rfl

theorem isNaN32_xor_signBit (w : Word) : isNaN32 (w ^^^ 0x80000000#32) = isNaN32 w := by
  obtain ⟨-, he, hf⟩ := fields_xor_signBit w
  simp only [isNaN32, he, hf]

theorem isInf32_xor_signBit (w : Word) : isInf32 (w ^^^ 0x80000000#32) = isInf32 w := by
  obtain ⟨-, he, hf⟩ := fields_xor_signBit w
  simp only [isInf32, he, hf]

theorem f32Rat_xor_signBit (w : Word) : f32Rat (w ^^^ 0x80000000#32) = -f32Rat w := by
  obtain ⟨hs, he, hf⟩ := fields_xor_signBit w
  rw [f32Rat_eq_mag, f32Rat_eq_mag, hs, he, hf]
  cases f32Sign w <;> simp

/-- The difference is the sum with `y` negated (R204), in the model and in IEEE-754. -/
theorem f32Sub_isF32Difference (x y : Word) : IsF32Difference x y (f32Sub x y) := by
  obtain ⟨hs, he, -⟩ := fields_xor_signBit y
  have hsum := f32Add_isF32Sum x (y ^^^ 0x80000000#32)
  have hsub : f32Add x (y ^^^ 0x80000000#32) = f32Sub x y := by rw [f32Add, f32Sub, f32Value_xor_signBit]
  rw [hsub] at hsum
  cases hres : f32Sub x y with
  | none =>
    rw [hres, IsF32Sum, isNaN32_xor_signBit, isInf32_xor_signBit, hs] at hsum
    simpa [IsF32Difference] using hsum
  | some z =>
    rw [hres, IsF32Sum, isNaN32_xor_signBit, isInf32_xor_signBit, hs, Finite32, Finite32, he, f32Rat_xor_signBit,
      ← sub_eq_add_neg] at hsum
    simpa [IsF32Difference, Bool.eq_not] using hsum

/-- `f32Mul` is an IEEE-754 product. -/
theorem f32Mul_isF32Product (x y : Word) : IsF32Product x y (f32Mul x y) := by
  unfold f32Mul
  obtain ⟨hx, hxnan⟩ | ⟨hx, hxnan, hxinf, hxfin⟩ | ⟨hx, hxnan, hxinf, hxfin⟩ := f32_classes x
  · rw [hx]
    exact .inl hxnan
  all_goals
    obtain ⟨hy, hynan⟩ | ⟨hy, hynan, hyinf, hyfin⟩ | ⟨hy, hynan, hyinf, hyfin⟩ := f32_classes y
    · rw [hy, f32MulValue_nan_right]
      exact .inr (.inl hynan)
  · rw [hx, hy]
    exact ⟨hxnan, hynan, fun h => hyfin h.2.1, fun h => hxfin h.1.1, fun _ => rfl, fun h => absurd h hxfin⟩
  · rw [hx, hy, f32MulValue]
    by_cases h0 : gridMag (absNum y) = 0
    · rw [if_pos h0]
      exact .inr (.inr (.inl ⟨hxinf, hyfin, (f32Rat_eq_zero_iff y).2 h0⟩))
    · rw [if_neg h0]
      exact ⟨hxnan, hynan, fun h => h0 ((f32Rat_eq_zero_iff y).1 h.2.2), fun h => hxfin h.1.1, fun _ => rfl,
        fun h => absurd h hxfin⟩
  · rw [hx, hy, f32MulValue]
    by_cases h0 : gridMag (absNum x) = 0
    · rw [if_pos h0]
      exact .inr (.inr (.inr ⟨⟨hxfin, (f32Rat_eq_zero_iff x).2 h0⟩, hyinf⟩))
    · rw [if_neg h0]
      exact ⟨hxnan, hynan, fun h => hyfin h.2.1, fun h => h0 ((f32Rat_eq_zero_iff x).1 h.1.2), fun _ => rfl,
        fun _ h => absurd h hyfin⟩
  · rw [hx, hy, f32MulValue]
    refine ⟨hxnan, hynan, by simp [hxinf], by simp [hyinf], by simp [hxinf, hyinf], fun _ _ => ?_⟩
    have hround := f32Round_roundsTo (f32Sign x != f32Sign y) (gridMag (absNum x) * gridMag (absNum y))
      (Nat.two_pow_pos 149)
    have hvalue : f32Rat x * f32Rat y = (if (f32Sign x != f32Sign y) = true then -1 else 1) *
        (((gridMag (absNum x) * gridMag (absNum y) : ℕ) : ℚ) / (2 ^ 149 : ℕ) * 2 ^ (-149 : ℤ)) := by
      rw [f32Rat_eq_gridMag x, f32Rat_eq_gridMag y, zpow_neg]
      cases f32Sign x <;> cases f32Sign y <;> push_cast <;> simp <;> ring
    rwa [hvalue]

/-- `f32Div` is an IEEE-754 quotient. -/
theorem f32Div_isF32Quotient (x y : Word) : IsF32Quotient x y (f32Div x y) := by
  unfold f32Div
  obtain ⟨hx, hxnan⟩ | ⟨hx, hxnan, hxinf, hxfin⟩ | ⟨hx, hxnan, hxinf, hxfin⟩ := f32_classes x
  · rw [hx]
    exact .inl hxnan
  all_goals
    obtain ⟨hy, hynan⟩ | ⟨hy, hynan, hyinf, hyfin⟩ | ⟨hy, hynan, hyinf, hyfin⟩ := f32_classes y
    · rw [hy, f32DivValue_nan_right]
      exact .inr (.inl hynan)
  · rw [hx, hy]
    exact .inr (.inr (.inl ⟨hxinf, hyinf⟩))
  · rw [hx, hy]
    exact ⟨hxnan, hynan, by simp [hyinf], fun h => hxfin h.1.1, fun _ => rfl, fun h => absurd h hxfin,
      fun h => absurd h hxfin⟩
  · rw [hx, hy]
    exact ⟨hxnan, hynan, by simp [hxinf], fun h => hyfin h.2.1, by simp [hxinf, hyfin], fun _ _ => rfl,
      fun _ h => absurd h hyfin⟩
  · have hx0 := f32Rat_eq_zero_iff x
    have hy0 := f32Rat_eq_zero_iff y
    rw [hx, hy, f32DivValue]
    by_cases hdiv : gridMag (absNum y) = 0
    · rw [if_pos hdiv]
      by_cases hnum : gridMag (absNum x) = 0
      · rw [if_pos hnum]
        exact .inr (.inr (.inr ⟨⟨hxfin, hx0.2 hnum⟩, hyfin, hy0.2 hdiv⟩))
      · rw [if_neg hnum]
        exact ⟨hxnan, hynan, by simp [hxinf], fun h => hnum (hx0.1 h.1.2), fun _ => rfl, by simp [hyinf],
          fun _ _ h => absurd (hy0.2 hdiv) h⟩
    · rw [if_neg hdiv]
      refine ⟨hxnan, hynan, by simp [hxinf], fun h => hdiv (hy0.1 h.2.2), ?_, by simp [hyinf], fun _ _ _ => ?_⟩
      · rintro (h | h)
        · exact absurd h (by simp [hxinf])
        · exact absurd (hy0.1 h.2.2) hdiv
      · have hround := f32Round_roundsTo (f32Sign x != f32Sign y) (gridMag (absNum x) * 2 ^ 149) (Nat.pos_of_ne_zero hdiv)
        have hvalue : f32Rat x / f32Rat y = (if (f32Sign x != f32Sign y) = true then -1 else 1) *
            (((gridMag (absNum x) * 2 ^ 149 : ℕ) : ℚ) / gridMag (absNum y) * 2 ^ (-149 : ℤ)) := by
          rw [f32Rat_eq_gridMag x, f32Rat_eq_gridMag y, zpow_neg]
          have hne : (gridMag (absNum y) : ℚ) ≠ 0 := Nat.cast_ne_zero.2 hdiv
          cases f32Sign x <;> cases f32Sign y <;> push_cast <;> simp <;> field_simp
        rwa [hvalue]

/-- An arithmetic command answers as `arithAnswered` says, whatever its float32 operation gives. -/
theorem arithCommand_eq_arithAnswered (f : Format) (op : Word → Word → Option Word) (a b : Word) (s : State) :
    arithCommand f op a b s = .next (arithAnswered f (op (decOperand f a) (decOperand f b)) s) := by
  unfold arithCommand
  cases op (decOperand f a) (decOperand f b) <;> rfl

/-- A command that runs a float32 operation computes by the relation that operation meets. -/
theorem computesBy_of_arithCommand {spec : Word → Word → Option Word → Prop} {op : Word → Word → Option Word}
    (hspec : ∀ x y, spec x y (op x y)) {f : Format} {i : Word → Word → Instr}
    (hexec : ∀ a b s, exec (i a b) s = arithCommand f op a b s) : ComputesBy spec f i :=
  fun a b s => ⟨_, hspec _ _, (hexec a b s).trans (arithCommand_eq_arithAnswered f op a b s)⟩

/-- Settles O47: every ADD command runs `f32Add`. -/
theorem addIsIeeeAddition : Obligations.AddIsIeeeAddition := by
  unfold Obligations.AddIsIeeeAddition
  refine ⟨?_, ?_, ?_, ?_, ?_, ?_, ?_⟩ <;> exact computesBy_of_arithCommand f32Add_isF32Sum fun _ _ _ => rfl

/-- Settles O48: every SUB command runs `f32Sub`. -/
theorem subIsIeeeSubtraction : Obligations.SubIsIeeeSubtraction := by
  unfold Obligations.SubIsIeeeSubtraction
  refine ⟨?_, ?_, ?_, ?_, ?_, ?_, ?_⟩ <;> exact computesBy_of_arithCommand f32Sub_isF32Difference fun _ _ _ => rfl

/-- Settles O49: every MUL command runs `f32Mul`. -/
theorem mulIsIeeeMultiplication : Obligations.MulIsIeeeMultiplication := by
  unfold Obligations.MulIsIeeeMultiplication
  refine ⟨?_, ?_, ?_, ?_, ?_, ?_, ?_⟩ <;> exact computesBy_of_arithCommand f32Mul_isF32Product fun _ _ _ => rfl

/-- Settles O50: every DIV command runs `f32Div`. -/
theorem divIsIeeeDivision : Obligations.DivIsIeeeDivision := by
  unfold Obligations.DivIsIeeeDivision
  refine ⟨?_, ?_, ?_, ?_, ?_, ?_, ?_⟩ <;> exact computesBy_of_arithCommand f32Div_isF32Quotient fun _ _ _ => rfl

end Sys2Proof.Machine
end

section
/-! PROOFS. The host's conversions (R102, R171): narrowing rounds as binary32 arithmetic does, and widening loses nothing. -/

namespace Sys2Proof.Machine

open Sys2Proof.Exact

theorem f64Frac_lt (d : BitVec 64) : f64Frac d < 2 ^ 52 := (d.extractLsb' 0 52).isLt

/-- The exact value of a finite float64 is its magnitude, in units of `2^-1074`. -/
theorem f64Rat_eq_mag (d : BitVec 64) :
    f64Rat d = (if f64Sign d then -1 else 1) * ((f64Mag (f64Exp d) (f64Frac d) : ℚ) * 2 ^ (-1074 : ℤ)) := by
  unfold f64Rat f64Mag
  congr 1
  split
  · exact mul_comm _ _
  · rename_i he
    have hexp : ((f64Exp d : ℤ) - 1023) = ((f64Exp d - 1 : ℕ) : ℤ) + 52 + (-1074) := by omega
    rw [hexp, zpow_add₀ two_ne_zero, zpow_add₀ two_ne_zero, zpow_natCast]
    generalize (2 : ℚ) ^ (-1074 : ℤ) = unit
    push_cast
    ring

theorem f64Mag_eq_gridVal (e : Nat) {m : Nat} (hm : m < 2 ^ 52) : f64Mag e m = gridVal 52 (e * 2 ^ 52 + m) := by
  have hdiv : (e * 2 ^ 52 + m) / 2 ^ 52 = e := by omega
  have hmod : (e * 2 ^ 52 + m) % 2 ^ 52 = m := by omega
  rw [gridVal, hdiv, hmod, f64Mag]

/-- The fields of a sign bit and a magnitude pattern below `2^63`. -/
theorem f64Fields_of_sign_or (s : Bool) {n : Nat} (hn : n < 2 ^ 63) :
    f64Sign ((BitVec.ofNat 64 s.toNat <<< 63) ||| BitVec.ofNat 64 n) = s ∧
      f64Exp ((BitVec.ofNat 64 s.toNat <<< 63) ||| BitVec.ofNat 64 n) = n / 2 ^ 52 ∧
      f64Frac ((BitVec.ofNat 64 s.toNat <<< 63) ||| BitVec.ofNat 64 n) = n % 2 ^ 52 := by
  have hto : ((BitVec.ofNat 64 s.toNat <<< 63) ||| BitVec.ofNat 64 n).toNat = 2 ^ 63 * s.toNat + n := by
    have hsign : (BitVec.ofNat 64 s.toNat <<< 63).toNat = 2 ^ 63 * s.toNat := by cases s <;> decide
    rw [BitVec.toNat_or, BitVec.toNat_ofNat, Nat.mod_eq_of_lt (by omega), hsign, ← Nat.two_pow_add_eq_or_of_lt hn]
  have hle := Bool.toNat_le s
  refine ⟨?_, ?_, ?_⟩
  · rw [f64Sign, BitVec.getLsbD, hto, Nat.testBit_eq_decide_div_mod_eq,
      show (2 ^ 63 * s.toNat + n) / 2 ^ 63 % 2 = s.toNat by omega]
    cases s <;> rfl
  · rw [f64Exp, BitVec.extractLsb'_toNat, hto, Nat.shiftRight_eq_div_pow]
    omega
  · rw [f64Frac, BitVec.extractLsb'_toNat, hto, Nat.shiftRight_zero]
    omega

/-- A short significand is not rounded by a wider format: its pattern has exactly that magnitude. -/
theorem gridVal_log2 {M sig e : Nat} (hsig : sig < 2 ^ (M + 1)) :
    let shift := Nat.log2 (sig * 2 ^ e) - M
    gridVal M (shift * 2 ^ M + sig * 2 ^ e / 2 ^ shift) = sig * 2 ^ e ∧
      shift * 2 ^ M + sig * 2 ^ e / 2 ^ shift < (e + 2) * 2 ^ M := by
  intro shift
  have hpow : 0 < 2 ^ shift := Nat.two_pow_pos shift
  have hlt : sig * 2 ^ e < 2 ^ (M + 1 + e) := by
    rw [pow_add]
    exact Nat.mul_lt_mul_of_pos_right hsig (Nat.two_pow_pos e)
  have hself : sig * 2 ^ e < 2 ^ (Nat.log2 (sig * 2 ^ e) + 1) := Nat.lt_log2_self
  have hshift : shift ≤ e := by
    obtain h0 | hpos := Nat.eq_zero_or_pos (sig * 2 ^ e)
    · simp only [shift, h0, Nat.log2_zero]
      omega
    · have := (Nat.log2_lt hpos.ne').2 hlt
      omega
  have htop : sig * 2 ^ e / 2 ^ shift < 2 ^ (M + 1) := by
    rw [Nat.div_lt_iff_lt_mul hpow, ← pow_add]
    exact hself.trans_le (Nat.pow_le_pow_right two_pos (by omega))
  have hnormal : shift = 0 ∨ 2 ^ M ≤ sig * 2 ^ e / 2 ^ shift := by
    obtain h0 | hpos := Nat.eq_zero_or_pos shift
    · exact .inl h0
    · have hne : sig * 2 ^ e ≠ 0 := fun h => by simp [shift, h, Nat.log2_zero] at hpos
      refine .inr ((Nat.le_div_iff_mul_le hpow).2 ?_)
      rw [← pow_add, show M + shift = Nat.log2 (sig * 2 ^ e) by omega]
      exact Nat.log2_self_le hne
  constructor
  · rw [gridVal_of_sig htop.le hnormal]
    exact Nat.div_mul_cancel ((pow_dvd_pow 2 hshift).mul_left sig)
  · have hle : shift * 2 ^ M ≤ e * 2 ^ M := Nat.mul_le_mul_right _ hshift
    rw [pow_succ] at htop
    rw [add_mul]
    omega

/-- A finite float32 magnitude has a short significand. -/
theorem gridMag_eq_sig_mul {n : Nat} (hn : n < 255 * 2 ^ 23) :
    ∃ sig e, gridMag n = sig * 2 ^ e ∧ sig < 2 ^ 24 ∧ e ≤ 253 := by
  obtain ⟨shift, sig, rfl, hsig, hnormal⟩ := exists_sig 23 n
  refine ⟨sig, shift, by rw [gridMag_eq_gridVal, gridVal_of_sig hsig.le hnormal], hsig, by omega⟩

/-- A finite float32 widens to the float64 of its sign and magnitude. -/
theorem widenF32_finite {w : Word} (hw : Finite32 w) :
    f64Exp (widenF32 w) ≠ 2047 ∧ f64Sign (widenF32 w) = f32Sign w ∧ f64Rat (widenF32 w) = f32Rat w := by
  obtain ⟨sig, e, hmag, hsig, he⟩ := gridMag_eq_sig_mul ((finite32_iff_absNum w).1 hw)
  have hmag64 : gridMag (absNum w) * 2 ^ 925 = sig * 2 ^ (e + 925) := by rw [hmag, pow_add, mul_assoc]
  obtain ⟨n, hn, hbits, hgrid⟩ : ∃ n, n < 2047 * 2 ^ 52 ∧ f64Bits (gridMag (absNum w) * 2 ^ 925) = BitVec.ofNat 64 n ∧
      gridVal 52 n = gridMag (absNum w) * 2 ^ 925 := by
    obtain ⟨hval, hlt⟩ := gridVal_log2 (M := 52) (e := e + 925) (hsig.trans (by norm_num : 2 ^ 24 < 2 ^ 53))
    refine ⟨_, hlt.trans_le (by nlinarith), ?_, hval.trans hmag64.symm⟩
    rw [f64Bits, hmag64]
  have hwiden : widenF32 w = (BitVec.ofNat 64 (f32Sign w).toNat <<< 63) ||| BitVec.ofNat 64 n := by
    obtain ⟨-, hclass⟩ | ⟨-, -, -, hclass⟩ | ⟨hvalue, -⟩ := f32_classes w
    · exact absurd ((isNaN32_iff w).1 hclass).1 hw
    · exact absurd hw hclass
    · rw [widenF32, hvalue, ← hbits]
  obtain ⟨hs, hexp, hfrac⟩ := f64Fields_of_sign_or (f32Sign w) (show n < 2 ^ 63 by omega)
  rw [← hwiden] at hs hexp hfrac
  refine ⟨by omega, hs, ?_⟩
  have hdm : n / 2 ^ 52 * 2 ^ 52 + n % 2 ^ 52 = n := Nat.div_add_mod' n (2 ^ 52)
  rw [f64Rat_eq_mag, f32Rat_eq_gridMag, f64Mag_eq_gridVal _ (f64Frac_lt _), hs, hexp, hfrac, hdm, hgrid]
  have hunit : (2 : ℚ) ^ 925 * 2 ^ (-1074 : ℤ) = 2 ^ (-149 : ℤ) := by
    rw [← zpow_natCast, ← zpow_add₀ two_ne_zero]
    rfl
  rw [Nat.cast_mul, Nat.cast_pow, Nat.cast_ofNat, mul_assoc ((gridMag (absNum w) : ℕ) : ℚ), hunit]

/-- The fields of a float64 written as sign, all-ones exponent and fraction. -/
theorem f64Fields_of_append (s : BitVec 1) (frac : BitVec 52) :
    f64Sign (s ++ 0x7FF#11 ++ frac : BitVec 64) = s.getLsbD 0 ∧ f64Exp (s ++ 0x7FF#11 ++ frac : BitVec 64) = 2047 ∧
      f64Frac (s ++ 0x7FF#11 ++ frac : BitVec 64) = frac.toNat := by
  have hs := s.isLt
  have hfrac := frac.isLt
  have hto : (s ++ 0x7FF#11 ++ frac : BitVec 64).toNat = 2 ^ 52 * (2 ^ 11 * s.toNat + 2047) + frac.toNat := by
    rw [BitVec.toNat_append, BitVec.toNat_append, Nat.shiftLeft_eq, Nat.shiftLeft_eq, Nat.mul_comm _ (2 ^ 52),
      ← Nat.two_pow_add_eq_or_of_lt hfrac, Nat.mul_comm _ (2 ^ 11), ← Nat.two_pow_add_eq_or_of_lt (by decide)]
    rfl
  refine ⟨?_, ?_, ?_⟩
  · rw [f64Sign, BitVec.getLsbD, BitVec.getLsbD, hto, Nat.testBit_eq_decide_div_mod_eq, Nat.testBit_eq_decide_div_mod_eq,
      decide_eq_decide]
    omega
  · rw [f64Exp, BitVec.extractLsb'_toNat, hto, Nat.shiftRight_eq_div_pow]
    omega
  · rw [f64Frac, BitVec.extractLsb'_toNat, hto, Nat.shiftRight_zero]
    omega

/-- A fraction made nonzero is nonzero. -/
theorem ite_zero_one_ne_zero {n : Nat} (x : BitVec (n + 1)) : (if x = 0#(n + 1) then 1#(n + 1) else x) ≠ 0#(n + 1) := by
  split
  · simp
  · assumption

/-- Settles O58: a finite value by its short significand, the infinities and the NaNs by their fields. -/
theorem wideningIsExact : Obligations.WideningIsExact := by
  unfold Obligations.WideningIsExact
  refine fun w => ⟨widenF32_finite, fun hinf => ?_, fun hnan => ?_⟩
  · obtain ⟨hs, hexp, hfrac⟩ := f64Fields_of_append (BitVec.ofBool (f32Sign w)) 0#52
    have hvalue : f32Value w = .inf (f32Sign w) := by
      obtain ⟨hexp, hfrac⟩ := (isInf32_iff w).1 hinf
      rw [f32Value, if_pos hexp, if_pos hfrac]
    rw [widenF32, hvalue]
    exact ⟨hexp, hfrac, hs.trans (by cases f32Sign w <;> rfl)⟩
  · have hvalue : f32Value w = .nan := by
      obtain ⟨hexp, hfrac⟩ := (isNaN32_iff w).1 hnan
      rw [f32Value, if_pos hexp, if_neg hfrac]
    rw [widenF32, hvalue]
    obtain ⟨-, hexp, hfrac⟩ := f64Fields_of_append ((Config.widenNan w).extractLsb' 52 1)
      (if (Config.widenNan w).extractLsb' 0 52 = 0#52 then 1#52 else (Config.widenNan w).extractLsb' 0 52)
    refine ⟨hexp, hfrac ▸ fun h => ?_⟩
    exact ite_zero_one_ne_zero _ (BitVec.eq_of_toNat_eq h)

/-- The narrowed NaN: a NaN of the sign, whatever nonzero fraction the host gives it. -/
theorem narrowNan_fields (s : Bool) {frac : BitVec 23} (h : frac ≠ 0#23) :
    isNaN32 (f32Inf s ||| frac.setWidth 32) = true ∧ f32Sign (f32Inf s ||| frac.setWidth 32) = s := by
  have hlt := frac.isLt
  have hne : frac.toNat ≠ 0 := fun h0 => h (BitVec.eq_of_toNat_eq h0)
  have hor : f32Inf s ||| frac.setWidth 32 = f32SignBit s ||| BitVec.ofNat 32 (2 ^ 23 * 255 + frac.toNat) := by
    rw [f32Inf, BitVec.or_assoc]
    congr 1
    apply BitVec.eq_of_toNat_eq
    rw [BitVec.toNat_or, BitVec.toNat_setWidth, BitVec.toNat_ofNat, Nat.mod_eq_of_lt (by omega : frac.toNat < 2 ^ 32),
      BitVec.toNat_ofNat, Nat.mod_eq_of_lt (by omega : 2 ^ 23 * 255 + frac.toNat < 2 ^ 32),
      Nat.two_pow_add_eq_or_of_lt hlt]
  obtain ⟨hs, hexp, hfrac⟩ := fields_of_sign_or s (show 2 ^ 23 * 255 + frac.toNat < 2 ^ 31 by omega)
  rw [hor, isNaN32_iff]
  exact ⟨⟨by omega, by omega⟩, hs⟩

/-- A finite float64 narrows by rounding its magnitude, counted in units of `2^-1074`. -/
theorem narrowF64_roundsTo {d : BitVec 64} (h : f64Exp d ≠ 2047) :
    RoundsTo (f64Rat d) (f64Sign d) (narrowF64 d) := by
  have hunit : ((2 ^ 925 : ℕ) : ℚ)⁻¹ * 2 ^ (-149 : ℤ) = 2 ^ (-1074 : ℤ) := by
    rw [Nat.cast_pow, Nat.cast_ofNat, ← zpow_natCast, ← zpow_neg, ← zpow_add₀ two_ne_zero]
    rfl
  rw [narrowF64, if_neg h, f64Rat_eq_mag, ← hunit, ← mul_assoc (f64Mag _ _ : ℚ), ← div_eq_mul_inv]
  exact f32Round_roundsTo _ _ (by positivity)

/-- An integer converts by rounding its magnitude, in units of `2^-149`. -/
theorem intToF32_roundsTo (z : ℤ) : RoundsTo z (decide (z < 0)) (intToF32 z) := by
  have hround := f32Round_roundsTo (decide (z < 0)) (z.natAbs * 2 ^ 149) Nat.one_pos
  have hvalue : (if decide (z < 0) = true then (-1 : ℚ) else 1) *
      (((z.natAbs * 2 ^ 149 : ℕ) : ℚ) / (1 : ℕ) * 2 ^ (-149 : ℤ)) = z := by
    rw [Nat.cast_one, div_one, Nat.cast_mul, Nat.cast_natAbs, mul_assoc, zpow_neg]
    by_cases hz : z < 0
    · norm_num [hz, abs_of_neg hz]
    · norm_num [hz, abs_of_nonneg (not_lt.1 hz)]
  rwa [hvalue] at hround

/-- Settles O59: both conversions round an exact quotient of magnitudes, and the specials keep their sign. -/
theorem narrowingRoundsToNearestEven : Obligations.NarrowingRoundsToNearestEven := by
  unfold Obligations.NarrowingRoundsToNearestEven
  refine ⟨fun d => ⟨narrowF64_roundsTo, fun hexp hfrac => ?_, fun hexp hfrac => ?_⟩, intToF32_roundsTo⟩
  · rw [narrowF64, if_pos hexp, if_pos hfrac]
  · rw [narrowF64, if_pos hexp, if_neg hfrac]
    exact narrowNan_fields _ (ite_zero_one_ne_zero _)

end Sys2Proof.Machine
end

section
/-! PROOFS. The rounder on exact quotients (R100), and rounding onto a grid: a nearest pattern of the grid, even at a tie. -/

namespace Sys2Proof.Machine

open Sys2Proof.Exact

/-- The rounder's two comparisons are those of the exact fraction with one half. -/
theorem rhe_eq_rheRat (num : ℤ) {den : ℕ} (hd : 0 < den) : rhe num den = rheRat ((num : ℚ) / den) := by
  have hd' : (0 : ℚ) < den := by exact_mod_cast hd
  have hfloor : ⌊(num : ℚ) / den⌋ = num / (den : ℤ) := Rat.floor_intCast_div_natCast num den
  have hrem : (num : ℚ) / den - ((num / (den : ℤ) : ℤ) : ℚ) = ((num - num / (den : ℤ) * den : ℤ) : ℚ) / den := by
    push_cast
    field_simp
  have hgt : (num : ℚ) / den - ((num / (den : ℤ) : ℤ) : ℚ) > 1 / 2 ↔ 2 * (num - num / (den : ℤ) * den) > (den : ℤ) := by
    rw [hrem, gt_iff_lt, lt_div_iff₀ hd', gt_iff_lt, ← Int.cast_lt (R := ℚ)]
    push_cast
    constructor <;> intro h <;> linarith
  have hlt : (num : ℚ) / den - ((num / (den : ℤ) : ℤ) : ℚ) < 1 / 2 ↔ 2 * (num - num / (den : ℤ) * den) < (den : ℤ) := by
    rw [hrem, div_lt_iff₀ hd', ← Int.cast_lt (R := ℚ)]
    push_cast
    constructor <;> intro h <;> linarith
  simp only [rhe, rheRat, hfloor, hgt, hlt]

/-- Settles O22: the distance of the integer rounder from the quotient, divided through by the denominator. -/
theorem rheIsExactRoundHalfToEven : Obligations.RheIsExactRoundHalfToEven := by
  unfold Obligations.RheIsExactRoundHalfToEven
  intro num den hd
  have hd' : (0 : ℚ) < den := by exact_mod_cast hd
  have hdist : |(num : ℚ) / den - rhe num den| = (|num - rhe num den * den| : ℤ) / (den : ℚ) := by
    rw [Int.cast_abs, ← abs_of_pos hd', ← abs_div, abs_of_pos hd']
    push_cast
    field_simp
  have hhalf : 2 * |num - rhe num den * den| ≤ den := by
    obtain ⟨hup, hdown⟩ := rhe_near num hd
    obtain ⟨h, -⟩ | ⟨h, -⟩ := abs_cases (num - rhe num den * den) <;> rw [h] <;> omega
  refine ⟨rhe_eq_rheRat num hd, ?_, fun htie => ?_⟩
  · rw [hdist, div_le_iff₀ hd']
    have : ((2 * |num - rhe num den * den| : ℤ) : ℚ) ≤ den := by exact_mod_cast hhalf
    push_cast at this ⊢
    linarith
  · rw [hdist, div_eq_iff hd'.ne'] at htie
    have htie' : 2 * |num - rhe num den * den| = den := by
      rw [← Int.cast_inj (α := ℚ)]
      push_cast at htie ⊢
      linarith
    obtain ⟨hlow, hhigh⟩ := rhe_floor num hd
    have hcases := rhe_cases num den
    simp only at hcases
    obtain ⟨hrem, hr⟩ | ⟨hrem, hr⟩ | ⟨-, heven, -⟩ := hcases
    · rw [hr, add_mul, one_mul, abs_of_neg (by linarith)] at htie'
      linarith
    · rw [hr, abs_of_nonneg (by linarith)] at htie'
      linarith
    · exact heven

/-- A common factor of numerator and denominator changes nothing. -/
theorem rhe_mul_right (num : ℤ) (den : ℕ) {c : ℕ} (hc : 0 < c) : rhe (num * c) (den * c) = rhe num den := by
  have hc' : (0 : ℤ) < c := by exact_mod_cast hc
  have hfloor : num * (c : ℤ) / ((den * c : ℕ) : ℤ) = num / (den : ℤ) := by
    rw [Nat.cast_mul, Int.mul_ediv_mul_of_pos_left _ _ hc']
  have hgt : 2 * (num * c - num / (den : ℤ) * ((den * c : ℕ) : ℤ)) > ((den * c : ℕ) : ℤ) ↔
      2 * (num - num / (den : ℤ) * den) > (den : ℤ) := by
    push_cast
    constructor <;> intro h <;> nlinarith
  have hlt : 2 * (num * c - num / (den : ℤ) * ((den * c : ℕ) : ℤ)) < ((den * c : ℕ) : ℤ) ↔
      2 * (num - num / (den : ℤ) * den) < (den : ℤ) := by
    push_cast
    constructor <;> intro h <;> nlinarith
  simp only [rhe, hfloor, hgt, hlt]

/-- An even integer added to the quotient is added to the result. -/
theorem rhe_add_mul (num : ℤ) {den : ℕ} (hd : 0 < den) {k : ℤ} (hk : k % 2 = 0) :
    rhe (num + k * den) den = rhe num den + k := by
  have hd' : (den : ℤ) ≠ 0 := by exact_mod_cast hd.ne'
  have hfloor : (num + k * den) / (den : ℤ) = num / (den : ℤ) + k := Int.add_mul_ediv_right _ _ hd'
  have hrem : num + k * den - (num / (den : ℤ) + k) * den = num - num / (den : ℤ) * den := by ring
  have hparity : (num / (den : ℤ) + k) % 2 = num / (den : ℤ) % 2 := by omega
  simp only [rhe, hfloor, hrem, hparity]
  split
  · ring
  · split
    · rfl
    · split <;> ring

/-- `n` is a nearest pattern to `num / den` on the grid, even when another is as near. -/
def NearestOnGrid (M num den n : Nat) : Prop :=
  ∀ k, |(num : ℤ) - gridVal M n * den| ≤ |(num : ℤ) - gridVal M k * den| ∧
    (|(num : ℤ) - gridVal M n * den| = |(num : ℤ) - gridVal M k * den| → gridVal M k ≠ gridVal M n → n % 2 = 0)

section NearestOnGrid

variable {M num den n : Nat} (h : NearestOnGrid M num den n) (hd : 0 < den) {k : Nat}
include h hd

/-- Past the middle between two neighbours the nearest pattern is not below the greater one, and at the middle when the
lower one is odd. -/
theorem NearestOnGrid.succ_le (hk : (gridVal M k + gridVal M (k + 1)) * den ≤ 2 * num)
    (htie : k % 2 = 1 ∨ (gridVal M k + gridVal M (k + 1)) * den < 2 * num) : k + 1 ≤ n := by
  by_contra! hlt
  have hd' : (0 : ℤ) < den := by exact_mod_cast hd
  have hn : (gridVal M n : ℤ) ≤ gridVal M k := by exact_mod_cast (gridVal_strictMono M).monotone (by omega : n ≤ k)
  have hk1 : (gridVal M k : ℤ) < gridVal M (k + 1) := by exact_mod_cast gridVal_lt_succ M k
  have hk' : ((gridVal M k : ℤ) + gridVal M (k + 1)) * den ≤ 2 * num := by exact_mod_cast hk
  obtain ⟨hnear, heven⟩ := h (k + 1)
  have hleft : |(num : ℤ) - gridVal M n * den| = num - gridVal M n * den := abs_of_nonneg (by nlinarith)
  rw [hleft] at hnear heven
  have hright : |(num : ℤ) - gridVal M (k + 1) * den| ≤ num - gridVal M k * den := abs_le.2 ⟨by nlinarith, by nlinarith⟩
  have hnk : (gridVal M n : ℤ) = gridVal M k := by nlinarith
  have hnk' : n = k := (gridVal_strictMono M).injective (by exact_mod_cast hnk)
  obtain hodd | hstrict := htie
  · have := heven (by nlinarith) fun heq => by omega
    omega
  · have hstrict' : ((gridVal M k : ℤ) + gridVal M (k + 1)) * den < 2 * num := by exact_mod_cast hstrict
    have hright' : |(num : ℤ) - gridVal M (k + 1) * den| < num - gridVal M k * den :=
      abs_lt.2 ⟨by nlinarith, by nlinarith⟩
    nlinarith

/-- Below the middle between two neighbours the nearest pattern is not above the lower one. -/
theorem NearestOnGrid.le (hk : 2 * num < (gridVal M k + gridVal M (k + 1)) * den) : n ≤ k := by
  by_contra! hlt
  have hd' : (0 : ℤ) < den := by exact_mod_cast hd
  have hn : (gridVal M (k + 1) : ℤ) ≤ gridVal M n := by exact_mod_cast (gridVal_strictMono M).monotone hlt
  have hk1 : (gridVal M k : ℤ) < gridVal M (k + 1) := by exact_mod_cast gridVal_lt_succ M k
  have hk' : 2 * (num : ℤ) < ((gridVal M k : ℤ) + gridVal M (k + 1)) * den := by exact_mod_cast hk
  obtain ⟨hnear, -⟩ := h k
  have hleft : |(num : ℤ) - gridVal M n * den| = gridVal M n * den - num := by
    rw [abs_sub_comm, abs_of_nonneg (by nlinarith)]
  have hright : |(num : ℤ) - gridVal M k * den| < gridVal M (k + 1) * den - num :=
    abs_lt.2 ⟨by nlinarith, by nlinarith⟩
  rw [hleft] at hnear
  nlinarith

/-- Not below a pattern of the grid, not rounded below it. -/
theorem NearestOnGrid.le_of_gridVal_le (hk : gridVal M k * den ≤ num) : k ≤ n := by
  cases k with
  | zero => exact Nat.zero_le n
  | succ j =>
    have hlt : gridVal M j * den < gridVal M (j + 1) * den := Nat.mul_lt_mul_of_pos_right (gridVal_lt_succ M j) hd
    have hmid : (gridVal M j + gridVal M (j + 1)) * den < 2 * num := by
      rw [add_mul]
      omega
    exact h.succ_le hd hmid.le (.inr hmid)

/-- Not above a pattern of the grid, not rounded above it. -/
theorem NearestOnGrid.le_of_le_gridVal (hk : num ≤ gridVal M k * den) : n ≤ k := by
  have hlt : gridVal M k * den < gridVal M (k + 1) * den := Nat.mul_lt_mul_of_pos_right (gridVal_lt_succ M k) hd
  exact h.le hd (by rw [add_mul]; omega)

/-- A number on the grid is its own nearest pattern. -/
theorem NearestOnGrid.eq_of_eq (hk : num = gridVal M k * den) : n = k :=
  le_antisymm (h.le_of_le_gridVal hd hk.le) (h.le_of_gridVal_le hd hk.ge)

end NearestOnGrid

/-- Every pattern is below the significand range of `shift`, or an exact multiple of `2^shift`. -/
theorem gridVal_split (M shift n : Nat) :
    (gridVal M n ≤ 2 ^ M * 2 ^ shift ∧ shift ≠ 0) ∨ ∃ k, gridVal M n = k * 2 ^ shift := by
  obtain ⟨e, sig, rfl, hsig, hnormal⟩ := exists_sig M n
  rw [gridVal_of_sig hsig.le hnormal]
  obtain h | h := Nat.lt_or_ge e shift
  · refine .inl ⟨?_, by omega⟩
    calc sig * 2 ^ e ≤ 2 ^ (M + 1) * 2 ^ e := Nat.mul_le_mul_right _ hsig.le
      _ = 2 ^ M * 2 ^ (e + 1) := by ring
      _ ≤ 2 ^ M * 2 ^ shift := Nat.mul_le_mul_left _ (Nat.pow_le_pow_right two_pos h)
  · exact .inr ⟨sig * 2 ^ (e - shift), by rw [mul_assoc, ← pow_add, Nat.sub_add_cancel h]⟩

/-- Rounding the significand in the range of `shift` gives a nearest pattern of the whole grid. -/
theorem nearestOnGrid_of_rhe {M shift num den : Nat} (hM : 1 ≤ M) (hd : 0 < den)
    (hhi : num ≤ 2 ^ (M + 1) * 2 ^ shift * den) (hlo : shift = 0 ∨ 2 ^ M * 2 ^ shift * den ≤ num) :
    NearestOnGrid M num den (shift * 2 ^ M + (rhe num (den * 2 ^ shift)).toNat) := by
  have hd' : 0 < den * 2 ^ shift := Nat.mul_pos hd (Nat.two_pow_pos shift)
  obtain ⟨sig, hsig⟩ := Int.eq_ofNat_of_zero_le (rhe_nonneg hd' (Int.natCast_nonneg num))
  have hsigHi : sig ≤ 2 ^ (M + 1) := by
    have hle : (num : ℤ) ≤ (2 ^ (M + 1) : ℕ) * ((den * 2 ^ shift : ℕ) : ℤ) := by
      rw [← Nat.cast_mul, Nat.cast_le]
      linarith
    exact_mod_cast hsig ▸ rhe_le hd' hle
  have hsigLo : shift = 0 ∨ 2 ^ M ≤ sig := hlo.imp_right fun h => by
    have hle : ((2 ^ M : ℕ) : ℤ) * ((den * 2 ^ shift : ℕ) : ℤ) ≤ num := by
      rw [← Nat.cast_mul, Nat.cast_le]
      linarith
    exact_mod_cast hsig ▸ le_rhe hd' hle
  have hnear := fun k : ℤ => rhe_nearest num k hd'
  have hcast : ∀ k : ℤ, k * ((den * 2 ^ shift : ℕ) : ℤ) = k * 2 ^ shift * den := by
    intro k
    push_cast
    ring
  simp only [hcast] at hnear
  rw [hsig] at hnear ⊢
  rw [Int.toNat_natCast]
  have hparity : (shift * 2 ^ M + sig) % 2 = sig % 2 := by
    obtain ⟨j, rfl⟩ := Nat.exists_eq_add_of_le hM
    rw [pow_add, pow_one, show shift * (2 * 2 ^ j) = 2 * (shift * 2 ^ j) by ring]
    omega
  intro k
  rw [gridVal_of_sig hsigHi hsigLo, hparity]
  push_cast
  obtain ⟨hle, hshift⟩ | ⟨j, hj⟩ := gridVal_split M shift k
  · have hbase : (2 : ℤ) ^ M * 2 ^ shift * den ≤ num := by exact_mod_cast hlo.resolve_left hshift
    have hle' : (gridVal M k : ℤ) * den ≤ 2 ^ M * 2 ^ shift * den := by
      exact_mod_cast Nat.mul_le_mul_right den hle
    obtain ⟨hnear', htie⟩ := hnear (2 ^ M)
    rw [abs_of_nonneg (a := (num : ℤ) - 2 ^ M * 2 ^ shift * den) (by linarith)] at hnear' htie
    rw [abs_of_nonneg (a := (num : ℤ) - gridVal M k * den) (by linarith)]
    refine ⟨by linarith, fun heq hne => ?_⟩
    by_cases hsigM : (2 : ℤ) ^ M = sig
    · have hval : (gridVal M k : ℤ) * den = (sig * 2 ^ shift) * den := by
        rw [← hsigM]
        linarith
      have hdz : (den : ℤ) ≠ 0 := by exact_mod_cast hd.ne'
      exact absurd (by exact_mod_cast mul_right_cancel₀ hdz hval) hne
    · exact_mod_cast htie (by linarith) hsigM
  · rw [hj]
    obtain ⟨hnear', htie⟩ := hnear j
    push_cast
    refine ⟨hnear', fun heq hne => ?_⟩
    have hjs : (j : ℤ) ≠ sig := fun h => hne (by rw [show j = sig by exact_mod_cast h])
    exact_mod_cast htie heq hjs

end Sys2Proof.Machine
end

section
/-! PROOFS. The shared encoder is one rounding onto the format's grid (R105 to R115): the number of the code is the nearest pattern,
held down to the largest subnormal below `2^emin` and to the overflow code above. -/

namespace Sys2Proof.Machine

open Sys2Proof.Safety Sys2Proof.Exact

/-- The least exponent field of a float32 of magnitude `2^emin` or more. -/
def minNormalExp (f : Format) : Nat := 128 - (formatSpec f).bias

/-- The format's step, in units of `2^-149`. -/
def stepMag (f : Format) : Nat := 2 ^ (150 - (formatSpec f).bias - (formatSpec f).mantBits)

/-- The number of the overflow code: infinity, the NaN sentinel, or the largest finite code (R111). -/
def overflowNum (f : Format) : Nat := (overflowFields f).1 * 2 ^ (formatSpec f).mantBits + (overflowFields f).2

/-- A finite magnitude rounded onto the format's grid, as the number of a code, with neither clamp nor overflow. -/
def roundNum (f : Format) (exp8 frac23 : Nat) : Nat :=
  (exp8 - minNormalExp f) * 2 ^ (formatSpec f).mantBits +
    (rhe (f32Mag exp8 frac23) (stepMag f * 2 ^ (exp8 - minNormalExp f))).toNat

/-- The number of the code of a finite operand: the rounded number, clamped in the subnormal range (R109) and at overflow. -/
def encNum (f : Format) (exp8 frac23 : Nat) : Nat :=
  min (roundNum f exp8 frac23) (if exp8 < minNormalExp f then mmax f else overflowNum f)

/-- The code of a sign and a number. -/
def packNum (f : Format) (s : Bool) (n : Nat) : Word :=
  packCode f s (n / 2 ^ (formatSpec f).mantBits) (n % 2 ^ (formatSpec f).mantBits)

theorem isStd_hasSign {f : Format} (h : isStd f = true) : (formatSpec f).hasSign = true := by
  cases f with
  | e8m0 | bf16 => cases h
  | e5m2 | e4m3fn | e2m3fn | e3m2fn | e2m1fn => rfl

theorem one_le_mantBits {f : Format} (h : isStd f = true) : 1 ≤ (formatSpec f).mantBits := by
  cases f with
  | e8m0 | bf16 => cases h
  | e5m2 | e4m3fn | e2m3fn | e3m2fn | e2m1fn => decide

theorem one_le_bias {f : Format} (h : isStd f = true) : 1 ≤ (formatSpec f).bias := by
  cases f with
  | e8m0 | bf16 => cases h
  | e5m2 | e4m3fn | e2m3fn | e3m2fn | e2m1fn => decide

theorem stepMag_pos (f : Format) : 0 < stepMag f := Nat.two_pow_pos _

/-- A number with its mantissa field split off. -/
theorem div_mod_of_fields {M x m : Nat} (hm : m < 2 ^ M) : (x * 2 ^ M + m) / 2 ^ M = x ∧ (x * 2 ^ M + m) % 2 ^ M = m := by
  have hpos : 0 < 2 ^ M := Nat.two_pow_pos M
  rw [Nat.add_comm, Nat.add_mul_div_right _ _ hpos, Nat.div_eq_of_lt hm, Nat.add_mul_mod_self_right,
    Nat.mod_eq_of_lt hm, Nat.zero_add]
  exact ⟨rfl, rfl⟩

theorem packCode_eq_packNum {f : Format} (s : Bool) {x m : Nat} (hm : m < 2 ^ (formatSpec f).mantBits) :
    packCode f s x m = packNum f s (x * 2 ^ (formatSpec f).mantBits + m) := by
  obtain ⟨hdiv, hmod⟩ := div_mod_of_fields (x := x) hm
  rw [packNum, hdiv, hmod]

/-- The significand of a normal operand, rounded to the format's mantissa bits: the leading one adds its own place. -/
theorem rhe_normal {f : Format} (h : isStd f = true) {exp8 : Nat} (hexp : minNormalExp f ≤ exp8) (frac23 : Nat) :
    rhe (f32Mag exp8 frac23) (stepMag f * 2 ^ (exp8 - minNormalExp f)) =
      rhe frac23 (2 ^ (23 - (formatSpec f).mantBits)) + 2 ^ (formatSpec f).mantBits := by
  obtain ⟨hM, -, hbias⟩ := isStd_bounds h
  have hM1 := one_le_mantBits h
  rw [minNormalExp] at hexp ⊢
  have hden : stepMag f * 2 ^ (exp8 - (128 - (formatSpec f).bias)) =
      2 ^ (23 - (formatSpec f).mantBits) * 2 ^ (exp8 - 1) := by
    rw [stepMag, ← pow_add, ← pow_add]
    congr 1
    omega
  have hsplit : (2 ^ 23 + frac23 : ℕ) = (frac23 : ℤ) + 2 ^ (formatSpec f).mantBits * (2 ^ (23 - (formatSpec f).mantBits) : ℕ) := by
    rw [Nat.cast_add, Nat.cast_pow, Nat.cast_pow, Nat.cast_ofNat, ← pow_add,
      show (formatSpec f).mantBits + (23 - (formatSpec f).mantBits) = 23 by omega, add_comm]
  have heven : (2 : ℤ) ^ (formatSpec f).mantBits % 2 = 0 := by
    obtain ⟨j, hj⟩ := Nat.exists_eq_add_of_le hM1
    rw [hj, pow_add, pow_one, Int.mul_emod_right]
  rw [f32Mag, if_neg (by omega), hden, Nat.cast_mul, rhe_mul_right _ _ (Nat.two_pow_pos _), hsplit,
    rhe_add_mul _ (Nat.two_pow_pos _) heven]

/-- The rounded fraction is at most one whole significand. -/
theorem rhe_frac_bounds {M frac23 : Nat} (hM : M ≤ 23) (hfrac : frac23 < 2 ^ 23) :
    0 ≤ rhe frac23 (2 ^ (23 - M)) ∧ rhe frac23 (2 ^ (23 - M)) ≤ 2 ^ M := by
  refine ⟨rhe_nonneg (Nat.two_pow_pos _) (Int.natCast_nonneg _), rhe_le (Nat.two_pow_pos _) ?_⟩
  have : frac23 ≤ 2 ^ M * 2 ^ (23 - M) := by
    rw [← pow_add, Nat.add_sub_cancel' hM]
    exact hfrac.le
  exact_mod_cast this

theorem overflowFields_lt {f : Format} (h : isStd f = true) :
    (overflowFields f).1 < 2 ^ (formatSpec f).expBits ∧ (overflowFields f).2 < 2 ^ (formatSpec f).mantBits := by
  cases f with
  | e8m0 | bf16 => cases h
  | e5m2 | e4m3fn | e2m3fn | e3m2fn | e2m1fn => decide

/-- The exponent field of the largest finite normal codes (R23, D10). -/
def topExp (f : Format) : Nat := if (formatSpec f).policy = .ieeeLike then emaxf f - 1 else emaxf f

/-- The overflow number is the first past the exponent `topExp` (infinity), or the one before it (the other two policies). -/
theorem overflowNum_bounds {f : Format} (h : isStd f = true) :
    emax f = (topExp f : ℤ) - (formatSpec f).bias ∧
      overflowNum f ≤ (topExp f + 1) * 2 ^ (formatSpec f).mantBits ∧
      (topExp f + 1) * 2 ^ (formatSpec f).mantBits ≤ overflowNum f + 1 := by
  cases f with
  | e8m0 | bf16 => cases h
  | e5m2 | e4m3fn | e2m3fn | e3m2fn | e2m1fn => decide

/-- The subnormal path in number form (R109, with the clamp). -/
theorem subnormalFields_eq {f : Format} (h : isStd f = true) {exp8 : Nat} (hexp : exp8 < minNormalExp f) (frac23 : Nat) :
    subnormalFields blockParams f (f32Mag exp8 frac23) =
      (encNum f exp8 frac23 / 2 ^ (formatSpec f).mantBits, encNum f exp8 frac23 % 2 ^ (formatSpec f).mantBits) := by
  obtain ⟨hM, -, hbias⟩ := isStd_bounds h
  have hpos : 0 < 2 ^ (formatSpec f).mantBits := Nat.two_pow_pos _
  have hstep : 2 ^ (149 + stepExp f).toNat = stepMag f := by
    rw [stepMag, stepExp]
    congr 1
    omega
  have hnum : encNum f exp8 frac23 = min (rhe (f32Mag exp8 frac23) (stepMag f)).toNat (mmax f) := by
    rw [encNum, roundNum, Nat.sub_eq_zero_of_le hexp.le, if_pos hexp, Nat.zero_mul, Nat.zero_add, pow_zero, Nat.mul_one]
  have hlt : encNum f exp8 frac23 < 2 ^ (formatSpec f).mantBits := by
    have hle : encNum f exp8 frac23 ≤ mmax f := hnum ▸ min_le_right _ _
    rw [mmax] at hle
    omega
  rw [Nat.div_eq_of_lt hlt, Nat.mod_eq_of_lt hlt, hnum]
  simp only [subnormalFields, hstep]
  rw [if_neg (fun hcarry => nomatch hcarry.1)]
  congr 1
  omega

/-- The normal path in number form (R110, R111, R113): a carry out of the mantissa is a carry into the exponent field. -/
theorem normalFields_eq {f : Format} (h : isStd f = true) {exp8 frac23 : Nat} (hexp : minNormalExp f ≤ exp8)
    (hfrac : frac23 < 2 ^ 23) :
    normalFields f ((exp8 : ℤ) - 127) frac23 =
      (encNum f exp8 frac23 / 2 ^ (formatSpec f).mantBits, encNum f exp8 frac23 % 2 ^ (formatSpec f).mantBits) := by
  obtain ⟨hM, -, hbias⟩ := isStd_bounds h
  have hbias1 := one_le_bias h
  have hpos : 0 < 2 ^ (formatSpec f).mantBits := Nat.two_pow_pos _
  obtain ⟨hemax, htop, htop'⟩ := overflowNum_bounds h
  obtain ⟨hmq0, hmq⟩ := rhe_frac_bounds (M := (formatSpec f).mantBits) (by omega) hfrac
  have hround : roundNum f exp8 frac23 = (exp8 - minNormalExp f + 1) * 2 ^ (formatSpec f).mantBits +
      (rhe frac23 (2 ^ (23 - (formatSpec f).mantBits))).toNat := by
    rw [roundNum, rhe_normal h hexp, Int.toNat_add hmq0 (by positivity), Int.toNat_pow_of_nonneg (by norm_num)]
    change _ + (_ + 2 ^ (formatSpec f).mantBits) = _
    ring
  have hnum : encNum f exp8 frac23 = min (roundNum f exp8 frac23) (overflowNum f) := by
    rw [encNum, if_neg hexp.not_gt]
  obtain ⟨mq, hmqNat⟩ := Int.eq_ofNat_of_zero_le hmq0
  simp only [normalFields]
  rw [hmqNat] at hmq hround ⊢
  rw [Int.toNat_natCast] at hround ⊢
  have hmq' : mq ≤ 2 ^ (formatSpec f).mantBits := by exact_mod_cast hmq
  obtain ⟨x, m, hm, hx, he, hfields⟩ : ∃ x m, m < 2 ^ (formatSpec f).mantBits ∧
      roundNum f exp8 frac23 = x * 2 ^ (formatSpec f).mantBits + m ∧
      (if (mq : ℤ) = 2 ^ (formatSpec f).mantBits then (exp8 : ℤ) - 127 + 1 else (exp8 : ℤ) - 127) =
        x - (formatSpec f).bias ∧
      (if (mq : ℤ) = 2 ^ (formatSpec f).mantBits then 0 else mq) = m := by
    rw [minNormalExp] at hexp hround
    by_cases hcarry : mq = 2 ^ (formatSpec f).mantBits
    · refine ⟨exp8 - (128 - (formatSpec f).bias) + 2, 0, hpos, by rw [hround, hcarry]; ring, ?_, ?_⟩
      · rw [if_pos (by exact_mod_cast hcarry)]
        omega
      · rw [if_pos (by exact_mod_cast hcarry)]
    · refine ⟨exp8 - (128 - (formatSpec f).bias) + 1, mq, by omega, hround, ?_, ?_⟩
      · rw [if_neg (by exact_mod_cast hcarry)]
        omega
      · rw [if_neg (by exact_mod_cast hcarry)]
  rw [he, hfields, hnum, hx]
  by_cases hover : (x : ℤ) - (formatSpec f).bias > emax f
  · have hxtop : (topExp f + 1) * 2 ^ (formatSpec f).mantBits ≤ x * 2 ^ (formatSpec f).mantBits :=
      Nat.mul_le_mul_right _ (by omega)
    obtain ⟨hdiv, hmod⟩ := div_mod_of_fields (x := (overflowFields f).1) (overflowFields_lt h).2
    rw [if_pos hover, min_eq_right (by omega), overflowNum, hdiv, hmod]
  · have hxtop : (x + 1) * 2 ^ (formatSpec f).mantBits ≤ (topExp f + 1) * 2 ^ (formatSpec f).mantBits :=
      Nat.mul_le_mul_right _ (by omega)
    obtain ⟨hdiv, hmod⟩ := div_mod_of_fields (x := x) hm
    rw [add_mul] at hxtop
    rw [if_neg hover, min_eq_left (by omega), hdiv, hmod]
    congr 1
    omega

/-- The fields of the code of a finite operand are those of its number. -/
theorem encFields_finite {f : Format} (h : isStd f = true) {exp8 frac23 : Nat} (hexp : exp8 ≠ 255)
    (hfrac : frac23 < 2 ^ 23) :
    encFields blockParams f exp8 frac23 =
      (encNum f exp8 frac23 / 2 ^ (formatSpec f).mantBits, encNum f exp8 frac23 % 2 ^ (formatSpec f).mantBits) := by
  obtain ⟨-, -, hbias⟩ := isStd_bounds h
  have hbias1 := one_le_bias h
  rw [encFields, if_neg hexp]
  by_cases hzero : exp8 = 0 ∧ frac23 = 0
  · obtain ⟨rfl, rfl⟩ := hzero
    have hrhe : rhe ((f32Mag 0 0 : ℕ) : ℤ) (stepMag f * 2 ^ (0 - minNormalExp f)) = 0 := by
      have hself := rhe_mul_self 0 (Nat.mul_pos (stepMag_pos f) (Nat.two_pow_pos (0 - minNormalExp f)))
      rwa [zero_mul] at hself
    have hnum : encNum f 0 0 = 0 := by
      rw [encNum, roundNum, hrhe, Nat.zero_sub, Nat.zero_mul]
      exact Nat.zero_min _
    rw [if_pos ⟨rfl, rfl⟩, hnum, Nat.zero_div, Nat.zero_mod]
  rw [if_neg hzero]
  by_cases hsub : exp8 < minNormalExp f
  · rw [← subnormalFields_eq h hsub]
    refine if_pos ?_
    rw [minNormalExp] at hsub
    rw [emin]
    split <;> omega
  · rw [← normalFields_eq h (not_lt.1 hsub) hfrac]
    rw [minNormalExp] at hsub
    simp only
    rw [if_neg (show exp8 ≠ 0 by omega), if_neg]
    rw [emin]
    omega

/-- ENC of a finite operand, as one rounding (R105). -/
theorem enc_finite {f : Format} (h : isStd f = true) {a : Word} (ha : Finite32 a) :
    enc blockParams f a = packNum f (f32Sign a) (encNum f (f32Exp a) (f32Frac a)) := by
  rw [enc_of_isStd h, encStd, encFields_finite h ha (f32Frac_lt a), packNum]

end Sys2Proof.Machine
end

section
/-! PROOFS. What the shared expander gives, code by code (R162 to R165), and the flip of its sign (R170). -/

namespace Sys2Proof.Machine

open Sys2Proof.Safety Sys2Proof.Exact

/-- The number of the largest finite code. -/
def maxNum (f : Format) : Nat := if (formatSpec f).policy = .finiteSaturating then overflowNum f else overflowNum f - 1

/-- The specials of the policies, by the number of the code: from an all-ones exponent field on, or the sentinel alone. -/
theorem special_iff {f : Format} (h : isStd f = true) (c : Word) :
    ((formatSpec f).policy = .ieeeLike ∧ codeExp f c = emaxf f ↔
      (formatSpec f).policy = .ieeeLike ∧ maxNum f < codeNum f c) ∧
    ((formatSpec f).policy = .finiteWithNanSentinel ∧ codeExp f c = emaxf f ∧ codeMant f c = mmax f ↔
      (formatSpec f).policy = .finiteWithNanSentinel ∧ maxNum f < codeNum f c) ∧
    ((formatSpec f).policy = .finiteSaturating → codeNum f c ≤ maxNum f) ∧
    ((formatSpec f).policy = .ieeeLike → codeExp f c = emaxf f → (codeMant f c = 0 ↔ codeNum f c = maxNum f + 1)) := by
  have hx := codeExp_lt f c
  have hm := codeMant_lt f c
  rw [codeNum]
  generalize codeExp f c = x at *
  generalize codeMant f c = m at *
  cases f with
  | e8m0 | bf16 => cases h
  | e5m2 | e4m3fn | e2m3fn | e3m2fn | e2m1fn =>
    simp [formatSpec, emaxf, mmax, maxNum, overflowNum, overflowFields] at hx hm ⊢
    omega

/-- A finite code decodes to its sign and its place on the grid. -/
theorem decOperand_finite {f : Format} (h : isStd f = true) {c : Word} (hc : codeNum f c ≤ maxNum f) :
    Finite32 (decOperand f c) ∧ f32Sign (decOperand f c) = codeSign f c ∧
      gridMag (absNum (decOperand f c)) = gridVal (formatSpec f).mantBits (codeNum f c) * stepMag f := by
  obtain ⟨hieee, hsentinel, -, -⟩ := special_iff h (codeOperand f c)
  rw [codeNum_codeOperand] at hieee hsentinel
  obtain ⟨hfinite, hsign, hvalue⟩ := decStd_of_not_special h blockParams (c := codeOperand f c)
    (fun hs => (hieee.1 hs).2.not_ge hc) (fun hs => (hsentinel.1 hs).2.not_ge hc)
  rw [← decOperand_of_isStd h] at hfinite hsign hvalue
  rw [codeSign_codeOperand] at hsign
  refine ⟨hfinite, hsign, ?_⟩
  have habs : ((gridMag (absNum (decOperand f c)) : ℕ) : ℚ) * 2 ^ (-149 : ℤ) =
      (codeMag f (codeExp f c) (codeMant f c) : ℚ) * 2 ^ (-149 : ℤ) := by
    rw [← abs_f32Rat_eq_gridMag, hvalue, codeRat_eq_mag h, abs_mul, codeExp_codeOperand, codeMant_codeOperand,
      abs_of_nonneg (a := (codeMag f _ _ : ℚ) * _) (by positivity)]
    split <;> simp
  rw [← Nat.cast_inj (R := ℚ), mul_right_cancel₀ (by positivity) habs, codeMag_eq_gridVal h (codeMant_lt f c)]
  rfl

/-- A special code decodes to the infinity or the NaN of its sign. -/
theorem decOperand_special {f : Format} (h : isStd f = true) {c : Word} (hc : maxNum f < codeNum f c) :
    decOperand f c = if (formatSpec f).policy = .ieeeLike ∧ codeNum f c = maxNum f + 1 then f32Inf (codeSign f c)
      else blockParams.decNan (codeSign f c) := by
  obtain ⟨hieee, hsentinel, hsat, hinf⟩ := special_iff h (codeOperand f c)
  rw [codeNum_codeOperand] at hieee hsentinel hsat hinf
  rw [decOperand_of_isStd h]
  simp only [decStd]
  rw [codeSign_codeOperand]
  by_cases hpolicy : (formatSpec f).policy = .ieeeLike
  · have hexp := (hieee.2 ⟨hpolicy, hc⟩).2
    rw [if_pos ⟨hpolicy, hexp⟩]
    simp only [hinf hpolicy hexp, hpolicy, true_and]
  · have hsent : (formatSpec f).policy = .finiteWithNanSentinel := by
      cases f with
      | e8m0 | bf16 => cases h
      | e5m2 => exact absurd rfl hpolicy
      | e4m3fn => rfl
      | e2m3fn | e3m2fn | e2m1fn => exact absurd (hsat rfl) hc.not_ge
    rw [if_neg (fun hs => hpolicy hs.1), if_pos (hsentinel.2 ⟨hsent, hc⟩), if_neg (fun hs => hpolicy hs.1)]

/-- The decoded NaN (R9): a NaN of the code's sign. -/
theorem isNaN32_decNan (s : Bool) : isNaN32 (blockParams.decNan s) = true := by cases s <;> decide

theorem isInf32_f32Inf (s : Bool) : isInf32 (f32Inf s) = true := by cases s <;> decide

theorem not_isNaN32_of_finite {w : Word} (h : Finite32 w) : isNaN32 w = false := by simp [isNaN32, h]

theorem not_isInf32_of_finite {w : Word} (h : Finite32 w) : isInf32 w = false := by simp [isInf32, h]

theorem not_isInf32_of_isNaN32 {w : Word} (h : isNaN32 w = true) : isInf32 w = false := by
  simp [isInf32, ((isNaN32_iff w).1 h).2]

theorem not_isNaN32_of_isInf32 {w : Word} (h : isInf32 w = true) : isNaN32 w = false := by
  simp [isNaN32, ((isInf32_iff w).1 h).2]

/-- The class of a decoded code, by its number. -/
theorem isNaN32_decOperand_iff {f : Format} (h : isStd f = true) (c : Word) :
    (isNaN32 (decOperand f c) = true ↔
      maxNum f < codeNum f c ∧ ¬ ((formatSpec f).policy = .ieeeLike ∧ codeNum f c = maxNum f + 1)) ∧
    (isInf32 (decOperand f c) = true ↔ (formatSpec f).policy = .ieeeLike ∧ codeNum f c = maxNum f + 1) := by
  obtain hc | hc := Nat.lt_or_ge (maxNum f) (codeNum f c)
  · rw [decOperand_special h hc]
    by_cases hinf : (formatSpec f).policy = .ieeeLike ∧ codeNum f c = maxNum f + 1
    · rw [if_pos hinf, not_isNaN32_of_isInf32 (isInf32_f32Inf _), isInf32_f32Inf]
      simp [hinf]
    · rw [if_neg hinf, isNaN32_decNan, not_isInf32_of_isNaN32 (isNaN32_decNan _)]
      simp [hinf, hc]
  · obtain ⟨hfinite, -, -⟩ := decOperand_finite h hc
    rw [not_isNaN32_of_finite hfinite, not_isInf32_of_finite hfinite]
    constructor
    · simp [hc]
    · simp only [Bool.false_eq_true, false_iff]
      omega

/-- Settles O33: the branches of the expander are those of R162, and its value branch is exact. -/
theorem decStdGivesTheExactValue : Obligations.DecStdGivesTheExactValue := by
  have hstd : ∀ {f : Format} {i : Word → Instr}, isStd f = true → (∀ a, (i a).op = .dec ∧ (i a).fmt = f ∧ (i a).opA = a) →
      DecodesAsR162 f i := by
    intro f i h hi a s
    obtain ⟨hop, hfmt, hopA⟩ := hi a
    refine ⟨decOperand f a, ?_, by rw [exec_dec hop, hfmt, hopA]⟩
    rw [decOperand_of_isStd h]
    change IsDecStd f (codeOperand f a) _
    generalize codeOperand f a = c
    simp only [IsDecStd]
    split
    case isTrue hieee =>
      simp only [decStd]
      rw [if_pos hieee]
      rfl
    case isFalse hieee =>
      split
      case isTrue hsentinel =>
        simp only [decStd]
        rw [if_neg hieee, if_pos hsentinel]
        rfl
      case isFalse hsentinel => exact decStd_of_not_special h blockParams hieee hsentinel
  unfold Obligations.DecStdGivesTheExactValue
  exact ⟨hstd rfl fun _ => ⟨rfl, rfl, rfl⟩, hstd rfl fun _ => ⟨rfl, rfl, rfl⟩, hstd rfl fun _ => ⟨rfl, rfl, rfl⟩,
    hstd rfl fun _ => ⟨rfl, rfl, rfl⟩, hstd rfl fun _ => ⟨rfl, rfl, rfl⟩⟩

/-- Settles O42: the exponent field of 1.0 is the bias, in every format. -/
theorem biasCodeDecodesToOne : Obligations.BiasCodeDecodesToOne := by
  unfold Obligations.BiasCodeDecodesToOne
  intro f
  cases f <;> decide

/-- Patterns of opposite signs differ by bit 31. -/
theorem signBit_not_or (s : Bool) {n : Nat} (hn : n < 2 ^ 31) :
    f32SignBit (!s) ||| BitVec.ofNat 32 n = (f32SignBit s ||| BitVec.ofNat 32 n) ^^^ 0x80000000#32 := by
  obtain ⟨hs, he, hf⟩ := fields_of_sign_or s hn
  obtain ⟨hs', he', hf'⟩ := fields_of_sign_or (!s) hn
  obtain ⟨hsx, hex, hfx⟩ := fields_xor_signBit (f32SignBit s ||| BitVec.ofNat 32 n)
  exact eq_of_fields (by rw [hs', hsx, hs]) (by rw [he', hex, he]) (by rw [hf', hfx, hf])

/-- The expander reads a code's sign for the sign bit of the pattern only. -/
theorem decStd_eq_sign_or {f : Format} (h : isStd f = true) (c : Word) : ∃ n < 2 ^ 31, ∀ d, codeExp f d = codeExp f c →
    codeMant f d = codeMant f c → decStd blockParams f d = f32SignBit (codeSign f d) ||| BitVec.ofNat 32 n := by
  obtain ⟨sig, e, hmag, hsig, he⟩ := codeMag_eq_sig_mul h c
  obtain ⟨n, hbits, hn, -⟩ := f32Bits_exact hsig he
  simp only [decStd]
  generalize codeExp f c = x at hmag ⊢
  generalize codeMant f c = m at hmag ⊢
  by_cases hieee : (formatSpec f).policy = .ieeeLike ∧ x = emaxf f
  · by_cases hm : m = 0
    · refine ⟨0x7F800000, by decide, fun d hx hm' => ?_⟩
      rw [hx, hm', if_pos hieee, if_pos hm]
      rfl
    · refine ⟨0x7FC00000, by decide, fun d hx hm' => ?_⟩
      rw [hx, hm', if_pos hieee, if_neg hm]
      rfl
  · by_cases hsent : (formatSpec f).policy = .finiteWithNanSentinel ∧ x = emaxf f ∧ m = mmax f
    · refine ⟨0x7FC00000, by decide, fun d hx hm' => ?_⟩
      rw [hx, hm', if_neg hieee, if_pos hsent]
      rfl
    · refine ⟨n, by omega, fun d hx hm' => ?_⟩
      rw [hx, hm', if_neg hieee, if_neg hsent, hmag, hbits]

/-- The fields of a decoded bfloat16 code are the code's own, with a wider fraction. -/
theorem fields_decOperand_bf16 (c : Word) : f32Sign (decOperand .bf16 c) = codeSign .bf16 c ∧
    f32Exp (decOperand .bf16 c) = codeExp .bf16 c ∧ f32Frac (decOperand .bf16 c) = codeMant .bf16 c * 2 ^ 16 := by
  have hto : (decOperand .bf16 c).toNat = c.toNat % 2 ^ 16 * 2 ^ 16 := by
    have hmask : (c &&& 0xFFFF#32).toNat = c.toNat % 2 ^ 16 := toNat_codeOperand_eq_mod .bf16 c
    rw [decOperand_bf16, BitVec.toNat_shiftLeft, hmask, Nat.shiftLeft_eq]
    omega
  refine ⟨?_, ?_, ?_⟩
  · rw [f32Sign, show codeSign .bf16 c = c.getLsbD 15 from rfl, BitVec.getLsbD, BitVec.getLsbD, hto,
      Nat.testBit_eq_decide_div_mod_eq, Nat.testBit_eq_decide_div_mod_eq, decide_eq_decide]
    omega
  · rw [f32Exp, BitVec.extractLsb'_toNat, hto, codeExp_eq, Nat.shiftRight_eq_div_pow]
    simp only [formatSpec]
    omega
  · rw [f32Frac, BitVec.extractLsb'_toNat, hto, codeMant_eq, Nat.shiftRight_zero]
    simp only [formatSpec]
    omega

/-- Settles O40: the flipped code has the same exponent and mantissa fields, and the decoder puts its sign at bit 31. -/
theorem decSignSymmetry : Obligations.DecSignSymmetry := by
  unfold Obligations.DecSignSymmetry
  intro f c hsign
  obtain ⟨hs, hx, hm⟩ := codeFields_xor_smask hsign c
  cases hstd : isStd f with
  | true =>
    obtain ⟨n, hn, hdec⟩ := decStd_eq_sign_or hstd c
    rw [decOperand_of_isStd hstd, decOperand_of_isStd hstd, hdec _ (by simp [hx]) (by simp [hm]), hdec _ (by simp) (by simp),
      codeSign_codeOperand, codeSign_codeOperand, hs, signBit_not_or _ hn]
  | false =>
    cases f with
    | e5m2 | e4m3fn | e2m3fn | e3m2fn | e2m1fn => cases hstd
    | e8m0 => cases hsign
    | bf16 =>
      obtain ⟨hs', he', hf'⟩ := fields_decOperand_bf16 (c ^^^ smask .bf16)
      obtain ⟨hs₀, he₀, hf₀⟩ := fields_decOperand_bf16 c
      obtain ⟨hsx, hex, hfx⟩ := fields_xor_signBit (decOperand .bf16 c)
      exact eq_of_fields (by rw [hs', hsx, hs₀, hs]) (by rw [he', hex, he₀, hx]) (by rw [hf', hfx, hf₀, hm])

end Sys2Proof.Machine
end

section
/-! PROOFS. Decoding, format by format: float8_e8m0 (R167), the NaN and infinity codes (R63), and the order of the codes (R170). -/

namespace Sys2Proof.Machine

open Sys2Proof.Safety Sys2Proof.Exact

theorem decOperand_e8m0 (a : Word) : decOperand .e8m0 a =
    if a &&& 0xFF#32 = 0xFF#32 then 0x7FC00000#32
    else if a &&& 0xFF#32 = 0x00#32 then 0x00400000#32 else (a &&& 0xFF#32) <<< 23 := by
  have hmask : a &&& 0xFF#32 &&& 0xFF#32 = a &&& 0xFF#32 := codeOperand_idem .e8m0 a
  change decP2 blockParams (a &&& 0xFF#32) = _
  rw [decP2, hmask]
  rfl

theorem toNat_byte_eq_codeNum (a : Word) : (a &&& 0xFF#32).toNat = codeNum .e8m0 a := by
  have h : (codeOperand .e8m0 a).toNat = _ := toNat_codeOperand .e8m0 a
  rw [show codeSign .e8m0 a = false from rfl, Bool.toNat_false, Nat.zero_mul, Nat.zero_add] at h
  exact h

/-- Every code of float8_e8m0 but 0xFF is a finite positive pattern: an exponent field of its own, or the subnormal below. -/
theorem decOperand_e8m0_finite {a : Word} (h : a &&& 0xFF#32 ≠ 0xFF#32) :
    f32Sign (decOperand .e8m0 a) = false ∧ f32Exp (decOperand .e8m0 a) = codeNum .e8m0 a ∧ codeNum .e8m0 a < 255 ∧
      f32Frac (decOperand .e8m0 a) = if codeNum .e8m0 a = 0 then 2 ^ 22 else 0 := by
  have hnum := toNat_byte_eq_codeNum a
  have hlt : codeNum .e8m0 a < 256 := codeNum_lt .e8m0 a
  have hne : codeNum .e8m0 a ≠ 255 := fun heq => h (BitVec.eq_of_toNat_eq (hnum.trans heq))
  rw [decOperand_e8m0, if_neg h]
  by_cases h0 : a &&& 0xFF#32 = 0x00#32
  · rw [h0] at hnum
    rw [if_pos h0, ← hnum]
    decide
  · have hpos : codeNum .e8m0 a ≠ 0 := fun heq => h0 (BitVec.eq_of_toNat_eq (hnum.trans heq))
    have hword : (a &&& 0xFF#32) <<< 23 = f32SignBit false ||| BitVec.ofNat 32 (codeNum .e8m0 a * 2 ^ 23) := by
      apply BitVec.eq_of_toNat_eq
      rw [show f32SignBit false = 0#32 from rfl, BitVec.zero_or, BitVec.toNat_shiftLeft, hnum, Nat.shiftLeft_eq,
        BitVec.toNat_ofNat]
    obtain ⟨hs, he, hf⟩ := fields_of_sign_or false (show codeNum .e8m0 a * 2 ^ 23 < 2 ^ 31 by omega)
    rw [if_neg h0, if_neg hpos, hword, hs, he, hf]
    exact ⟨rfl, by omega, by omega, by omega⟩

/-- Settles O35: the code is the exponent field, and the subnormal of code 0x00 is half the least normal. -/
theorem decE8m0GivesPowersOfTwo : Obligations.DecE8m0GivesPowersOfTwo := by
  unfold Obligations.DecE8m0GivesPowersOfTwo
  intro a s
  refine ⟨decOperand .e8m0 a, exec_dec rfl s, fun h => ?_, fun h => ?_, fun h h0 => ?_, fun h => ?_⟩
  · rw [decOperand_e8m0, if_pos h]
  · rw [decOperand_e8m0, h]
    rfl
  · rw [decOperand_e8m0, if_neg h, if_neg h0]
  · obtain ⟨hs, he, hlt, hf⟩ := decOperand_e8m0_finite h
    refine ⟨by rw [Finite32, he]; omega, ?_⟩
    rw [f32Rat, hs, he, hf, toNat_byte_eq_codeNum]
    by_cases h0 : codeNum .e8m0 a = 0
    · rw [if_pos h0, if_pos h0, h0]
      norm_num
    · rw [if_neg h0, if_neg h0]
      norm_num

theorem isNaN32_decOperand_e8m0 (a : Word) : isNaN32 (decOperand .e8m0 a) = true ↔ a &&& 0xFF#32 = 0xFF#32 := by
  constructor
  · intro hnan
    by_contra h
    obtain ⟨-, he, hlt, -⟩ := decOperand_e8m0_finite h
    have := ((isNaN32_iff _).1 hnan).1
    omega
  · intro h
    rw [decOperand_e8m0, if_pos h]
    decide

theorem isInf32_decOperand_e8m0 (a : Word) : isInf32 (decOperand .e8m0 a) = false := by
  by_cases h : a &&& 0xFF#32 = 0xFF#32
  · exact not_isInf32_of_isNaN32 ((isNaN32_decOperand_e8m0 a).2 h)
  · obtain ⟨-, he, hlt, -⟩ := decOperand_e8m0_finite h
    exact not_isInf32_of_finite (by rw [Finite32, he]; omega)

/-- R63's lists for the formats of the shared expander: the numbers of the special codes, with either sign. -/
theorem special_codes_std {f : Format} (h : isStd f = true) (c : Word) :
    (nanCode f (codeOperand f c) = true ↔
      maxNum f < codeNum f c ∧ ¬ ((formatSpec f).policy = .ieeeLike ∧ codeNum f c = maxNum f + 1)) ∧
    (infCode f (codeOperand f c) = true ↔ (formatSpec f).policy = .ieeeLike ∧ codeNum f c = maxNum f + 1) := by
  have hcode := toNat_codeOperand f c
  have hlt := codeNum_lt f c
  have hsign := Bool.toNat_le (codeSign f c)
  generalize codeOperand f c = d at hcode ⊢
  cases f with
  | e8m0 | bf16 => cases h
  | e5m2 | e4m3fn | e2m3fn | e3m2fn | e2m1fn =>
    simp [nanCode, infCode, ← BitVec.toNat_inj, formatSpec, maxNum, overflowNum, overflowFields, emaxf, mmax] at hcode hlt ⊢
    omega

/-- R63's lists for bfloat16: an all-ones exponent field. -/
theorem special_codes_bf16 (c : Word) :
    (nanCode .bf16 (codeOperand .bf16 c) = true ↔ codeExp .bf16 c = 255 ∧ codeMant .bf16 c ≠ 0) ∧
    (infCode .bf16 (codeOperand .bf16 c) = true ↔ codeExp .bf16 c = 255 ∧ codeMant .bf16 c = 0) := by
  have hcode := toNat_codeOperand .bf16 c
  have hx := codeExp_lt .bf16 c
  have hm := codeMant_lt .bf16 c
  have hsign := Bool.toNat_le (codeSign .bf16 c)
  constructor
  · rw [← codeExp_codeOperand, ← codeMant_codeOperand]
    simp only [nanCode, decide_eq_true_eq, ne_eq, ← BitVec.toNat_inj]
    rfl
  · simp only [infCode, decide_eq_true_eq, ← BitVec.toNat_inj, hcode, codeNum, formatSpec] at hx hm ⊢
    simp only [BitVec.toNat_ofNat]
    omega

/-- The classes of the decoded patterns and the lists of R63 are the same sets of codes. -/
theorem special_codes_iff (f : Format) (c : Word) :
    (isNaN32 (decOperand f c) = true ↔ nanCode f (codeOperand f c) = true) ∧
      (isInf32 (decOperand f c) = true ↔ infCode f (codeOperand f c) = true) := by
  cases hstd : isStd f with
  | true =>
    obtain ⟨hnan, hinf⟩ := isNaN32_decOperand_iff hstd c
    obtain ⟨hnanCode, hinfCode⟩ := special_codes_std hstd c
    exact ⟨hnan.trans hnanCode.symm, hinf.trans hinfCode.symm⟩
  | false =>
    cases f with
    | e5m2 | e4m3fn | e2m3fn | e3m2fn | e2m1fn => cases hstd
    | e8m0 =>
      refine ⟨(isNaN32_decOperand_e8m0 c).trans ?_, ?_⟩
      · simp only [nanCode, decide_eq_true_eq]
        rfl
      · rw [isInf32_decOperand_e8m0]
        rfl
    | bf16 =>
      obtain ⟨-, he, hf⟩ := fields_decOperand_bf16 c
      obtain ⟨hnanCode, hinfCode⟩ := special_codes_bf16 c
      rw [isNaN32_iff, isInf32_iff, he, hf, hnanCode, hinfCode]
      constructor <;> omega

/-- Settles O43. -/
theorem nanAndInfinityCodes : Obligations.NanAndInfinityCodes := by
  unfold Obligations.NanAndInfinityCodes
  intro f c
  obtain ⟨hnan, hinf⟩ := special_codes_iff f c
  exact ⟨Bool.eq_iff_iff.2 hnan, Bool.eq_iff_iff.2 hinf⟩

/-- The sign of a decoded code that is no NaN is the code's. -/
theorem f32Sign_decOperand {f : Format} {c : Word} (h : isNaN32 (decOperand f c) = false) :
    f32Sign (decOperand f c) = codeSign f c := by
  cases hstd : isStd f with
  | true =>
    obtain hc | hc := Nat.lt_or_ge (maxNum f) (codeNum f c)
    · have hdec := decOperand_special hstd hc
      split at hdec
      · rw [hdec, f32Inf]
        exact (fields_of_sign_or _ (by decide)).1
      · rw [hdec, isNaN32_decNan] at h
        cases h
    · exact (decOperand_finite hstd hc).2.1
  | false =>
    cases f with
    | e5m2 | e4m3fn | e2m3fn | e3m2fn | e2m1fn => cases hstd
    | e8m0 =>
      have hne : c &&& 0xFF#32 ≠ 0xFF#32 := fun heq => by simp [(isNaN32_decOperand_e8m0 c).2 heq] at h
      exact (decOperand_e8m0_finite hne).1
    | bf16 => exact (fields_decOperand_bf16 c).1

/-- Within the codes that are no NaN, a greater number decodes to a greater pattern. -/
theorem absNum_decOperand_lt {f : Format} {c d : Word} (hc : isNaN32 (decOperand f c) = false)
    (hd : isNaN32 (decOperand f d) = false) (hlt : codeNum f c < codeNum f d) :
    absNum (decOperand f c) < absNum (decOperand f d) := by
  cases hstd : isStd f with
  | true =>
    have hnan := (isNaN32_decOperand_iff hstd d).1
    rw [hd] at hnan
    obtain hinf | hfin := Nat.lt_or_ge (maxNum f) (codeNum f d)
    · have hspecial : (formatSpec f).policy = .ieeeLike ∧ codeNum f d = maxNum f + 1 := by
        by_contra hno
        exact absurd (hnan.2 ⟨hinf, hno⟩) (by decide)
      obtain ⟨hfinite, -, -⟩ := decOperand_finite hstd (c := c) (by omega)
      have habs : absNum (decOperand f d) = 255 * 2 ^ 23 := by
        rw [decOperand_special hstd hinf, if_pos hspecial]
        exact (sign_absNum_of_sign_or _ (by decide)).2
      rw [habs]
      exact (finite32_iff_absNum _).1 hfinite
    · obtain ⟨-, -, hgridc⟩ := decOperand_finite hstd (c := c) (by omega)
      obtain ⟨-, -, hgridd⟩ := decOperand_finite hstd hfin
      rw [← gridMag_strictMono.lt_iff_lt, hgridc, hgridd]
      exact Nat.mul_lt_mul_of_pos_right (gridVal_strictMono _ hlt) (stepMag_pos f)
  | false =>
    cases f with
    | e5m2 | e4m3fn | e2m3fn | e3m2fn | e2m1fn => cases hstd
    | e8m0 =>
      have hne : ∀ a : Word, isNaN32 (decOperand .e8m0 a) = false → a &&& 0xFF#32 ≠ 0xFF#32 := fun a ha heq => by
        simp [(isNaN32_decOperand_e8m0 a).2 heq] at ha
      obtain ⟨-, hec, -, hfc⟩ := decOperand_e8m0_finite (hne c hc)
      obtain ⟨-, hed, -, hfd⟩ := decOperand_e8m0_finite (hne d hd)
      rw [absNum_eq, absNum_eq, hec, hed, hfc, hfd]
      split <;> split <;> omega
    | bf16 =>
      obtain ⟨-, hec, hfc⟩ := fields_decOperand_bf16 c
      obtain ⟨-, hed, hfd⟩ := fields_decOperand_bf16 d
      rw [absNum_eq, absNum_eq, hec, hed, hfc, hfd]
      simp only [codeNum, formatSpec] at hlt
      omega

/-- Distinct codes that are no NaN decode to distinct patterns. -/
theorem codeOperand_eq_of_decOperand_eq {f : Format} {c d : Word} (hc : isNaN32 (decOperand f c) = false)
    (h : decOperand f c = decOperand f d) : codeOperand f c = codeOperand f d := by
  have hd : isNaN32 (decOperand f d) = false := h ▸ hc
  have hs : codeSign f c = codeSign f d := by rw [← f32Sign_decOperand hc, h, f32Sign_decOperand hd]
  have hn : codeNum f c = codeNum f d := by
    obtain hlt | heq | hlt := lt_trichotomy (codeNum f c) (codeNum f d)
    · exact absurd (congrArg absNum h) (absNum_decOperand_lt hc hd hlt).ne
    · exact heq
    · exact absurd (congrArg absNum h) (absNum_decOperand_lt hd hc hlt).ne'
  apply BitVec.eq_of_toNat_eq
  rw [toNat_codeOperand, toNat_codeOperand, hs, hn]

/-- The extended value of a pattern's magnitude: infinity at the top, else its place on the grid. -/
theorem f32Ext_abs (w : Word) : f32Ext (w &&& 0x7FFFFFFF#32) =
    if f32Exp w = 255 then ((⊤ : WithTop ℚ) : WithBot (WithTop ℚ))
    else ((((gridMag (absNum w) : ℚ) * 2 ^ (-149 : ℤ) : ℚ) : WithTop ℚ) : WithBot (WithTop ℚ)) := by
  have hexp : (0x7FFFFFFF#32).extractLsb' 23 8 = BitVec.allOnes 8 := by decide
  have hfrac : (0x7FFFFFFF#32).extractLsb' 0 23 = BitVec.allOnes 23 := by decide
  have hs : f32Sign (w &&& 0x7FFFFFFF#32) = false := by simp [f32Sign]
  have he : f32Exp (w &&& 0x7FFFFFFF#32) = f32Exp w := by
    rw [f32Exp, f32Exp, BitVec.extractLsb'_and, hexp, BitVec.and_allOnes]
  have hf : f32Frac (w &&& 0x7FFFFFFF#32) = f32Frac w := by
    rw [f32Frac, f32Frac, BitVec.extractLsb'_and, hfrac, BitVec.and_allOnes]
  rw [f32Ext, f32Rat_eq_mag, hs, he, hf, f32Mag_eq_gridMag_absNum]
  simp only [Bool.false_eq_true, if_false, one_mul]

/-- Settles O41: a greater code of one sign has a greater number, which decodes to a greater pattern. -/
theorem decIsMonotone : Obligations.DecIsMonotone := by
  unfold Obligations.DecIsMonotone
  intro f c d hsign hle hc hd
  have hnum : codeNum f c ≤ codeNum f d := by
    have hle' : (codeOperand f c).toNat ≤ (codeOperand f d).toNat := hle
    rw [toNat_codeOperand, toNat_codeOperand, hsign] at hle'
    omega
  have habs : absNum (decOperand f c) ≤ absNum (decOperand f d) := by
    obtain hlt | heq := Nat.lt_or_eq_of_le hnum
    · exact (absNum_decOperand_lt hc hd hlt).le
    · have hcode : codeOperand f c = codeOperand f d := by
        apply BitVec.eq_of_toNat_eq
        rw [toNat_codeOperand, toNat_codeOperand, hsign, heq]
      rw [decOperand_congr hcode]
  rw [f32Ext_abs, f32Ext_abs]
  by_cases hinf : f32Exp (decOperand f d) = 255
  · rw [if_pos hinf]
    split
    · exact le_rfl
    · exact WithBot.coe_le_coe.2 le_top
  · have hfin := (finite32_iff_absNum _).1 hinf
    have hfin' : Finite32 (decOperand f c) := (finite32_iff_absNum _).2 (by omega)
    rw [if_neg hinf, if_neg hfin', WithBot.coe_le_coe, WithTop.coe_le_coe]
    exact mul_le_mul_of_nonneg_right (by exact_mod_cast gridMag_strictMono.monotone habs) (by positivity)

end Sys2Proof.Machine
end

section
/-! PROOFS. NEG (R201) and the comparisons (R210 to R216). -/

namespace Sys2Proof.Machine

open Sys2Proof.Safety Sys2Proof.Exact

/-- A NEG command answers with the flipped code. -/
theorem exec_neg {i : Instr} (h : i.op = .neg) (s : State) :
    exec i s = .next (answered (negCode i.fmt i.opA) s) := by
  rw [exec_eq_execOp, h]
  exact negCommand_next i.fmt i.opA s

/-- Settles O44: the masks written out are WMASK and SMASK of the format. -/
theorem negFlipsTheSignBit : Obligations.NegFlipsTheSignBit := by
  unfold Obligations.NegFlipsTheSignBit
  exact ⟨fun _ => exec_neg rfl, fun _ => exec_neg rfl, fun _ => exec_neg rfl, fun _ => exec_neg rfl,
    fun _ => exec_neg rfl, fun _ => exec_neg rfl⟩

/-- A flipped code has no bit above the format's width, and flipped again it is the masked code. -/
theorem negCode_negCode (f : Format) (a : Word) : negCode f (negCode f a) = codeOperand f a := by
  rw [negCode, negCode, codeOperand_xor_smask, codeOperand_idem, BitVec.xor_assoc, BitVec.xor_self, BitVec.xor_zero]

/-- A code and its negation are NaN codes together: their patterns differ in bit 31 alone. -/
theorem isNaN32_decOperand_negCode {f : Format} (h : (formatSpec f).hasSign = true) (a : Word) :
    isNaN32 (decOperand f (negCode f a)) = isNaN32 (decOperand f a) := by
  rw [negCode, decSignSymmetry f _ h, isNaN32_xor_signBit, decOperand_congr (codeOperand_idem f a)]

/-- Settles O45. -/
theorem negTwiceIsTheIdentity : Obligations.NegTwiceIsTheIdentity := by
  unfold Obligations.NegTwiceIsTheIdentity
  intro f a b s i hi
  obtain ⟨hop, hfmt, hopA⟩ := commandOf_eq_some hi
  have hsign : (formatSpec f).hasSign = true := by
    cases f with
    | e8m0 => cases hi
    | e5m2 | e4m3fn | bf16 | e2m3fn | e3m2fn | e2m1fn => rfl
  refine ⟨negCode f a, by rw [exec_neg hop, hfmt, hopA], isNaN32_decOperand_negCode hsign a, fun b' i' hi' => ?_⟩
  obtain ⟨hop', hfmt', hopA'⟩ := commandOf_eq_some hi'
  rw [exec_neg hop', hfmt', hopA', negCode_negCode]
  rfl

/-- EQ at the block's parameters: the same bits, or two NaNs. -/
theorem codesEqual_iff (f : Format) (a b : Word) : codesEqual f a b = true ↔
    decOperand f a = decOperand f b ∨ (isNaN32 (decOperand f a) = true ∧ isNaN32 (decOperand f b) = true) := by
  have hbits : blockParams.eqZero ≠ .ieee := nofun
  simp [codesEqual, f32Equal, hbits]

/-- Equality of decoded patterns is equality of codes: distinct codes that are no NaN decode apart. -/
theorem codesEqual_eq_equalCodes (f : Format) (a b : Word) : codesEqual f a b = equalCodes f a b := by
  obtain ⟨hnana, -⟩ := nanAndInfinityCodes f a
  obtain ⟨hnanb, -⟩ := nanAndInfinityCodes f b
  rw [Bool.eq_iff_iff, codesEqual_iff, equalCodes, ← hnana, ← hnanb, decide_eq_true_eq]
  change _ ↔ (codeOperand f a = codeOperand f b ∧ _) ∨ _
  constructor
  · rintro (heq | hnan)
    · cases hna : isNaN32 (decOperand f a) with
      | true => exact .inr ⟨rfl, by rw [← heq, hna]⟩
      | false => exact .inl ⟨codeOperand_eq_of_decOperand_eq hna heq, rfl⟩
    · exact .inr hnan
  · rintro (⟨heq, -⟩ | hnan)
    · exact .inl (decOperand_congr heq)
    · exact .inr hnan

theorem boolWord_eq_ite (b : Bool) : boolWord b = if b then 1#32 else 0#32 := by cases b <;> rfl

/-- A command that runs EQ's common form has the NaN quirk. -/
theorem equalsByBitsOrNan_of_eqCommand {f : Format} {i : Word → Word → Instr}
    (hexec : ∀ a b s, exec (i a b) s = eqCommand f a b s) : EqualsByBitsOrNan f i := by
  intro a b s
  refine ⟨boolWord (codesEqual f a b), (hexec a b s).trans (eqCommand_next f a b s), fun h => ?_, fun h => ?_⟩
  · rw [(codesEqual_iff f a b).2 h]
    rfl
  · rw [Bool.eq_false_iff.2 (mt (codesEqual_iff f a b).1 h)]
    rfl

/-- The seven EQ command words (R71, R72). -/
theorem eq_commandWords : [Format.e5m2, .e4m3fn, .e8m0, .bf16, .e2m3fn, .e3m2fn, .e2m1fn].map (commandWord .eq) =
    [0x08#32, 0x18#32, 0x28#32, 0x38#32, 0x48#32, 0x58#32, 0x68#32] := by
  decide

/-- Settles O53: every EQ command runs `codesEqual`. -/
theorem eqHasTheNanQuirk : Obligations.EqHasTheNanQuirk := by
  unfold Obligations.EqHasTheNanQuirk
  refine ⟨?_, ?_, ?_, ?_, ?_, ?_, ?_, fun _ _ => eq_commandWords⟩ <;>
    exact equalsByBitsOrNan_of_eqCommand fun _ _ _ => rfl

/-- Commands that run the common forms of EQ and NE compare codes. -/
theorem equalOnCodes_of_commands {f : Format} {eq ne : Word → Word → Instr}
    (heq : ∀ a b s, exec (eq a b) s = eqCommand f a b s) (hne : ∀ a b s, exec (ne a b) s = neCommand f a b s) :
    EqualOnCodes f eq ne := by
  intro a b s
  rw [heq, hne, eqCommand_next, neCommand_next, one_sub_boolWord, codesEqual_eq_equalCodes, boolWord_eq_ite, boolWord_eq_ite]
  cases equalCodes f a b <;> exact ⟨rfl, rfl⟩

/-- Settles O54: every pair of EQ and NE commands runs `codesEqual` and its negation. -/
theorem eqAndNeOnCodes : Obligations.EqAndNeOnCodes := by
  unfold Obligations.EqAndNeOnCodes
  refine ⟨?_, ?_, ?_, ?_, ?_, ?_, ?_⟩ <;> exact equalOnCodes_of_commands (fun _ _ _ => rfl) fun _ _ _ => rfl

theorem orderOf_compares (x y : ℤ) : (orderOf x y).Compares x y := by
  unfold orderOf
  split
  case isTrue h => exact h
  case isFalse h =>
    split
    case isTrue heq => exact heq
    case isFalse hne => exact lt_of_le_of_ne (not_lt.1 h) (Ne.symm hne)

/-- The extended value of an infinity. -/
theorem f32Ext_of_inf {w : Word} (h : ¬ Finite32 w) :
    f32Ext w = if f32Sign w then ⊥ else ((⊤ : WithTop ℚ) : WithBot (WithTop ℚ)) := by
  rw [f32Ext, if_pos (not_not.1 h)]

theorem f32Ext_of_finite {w : Word} (h : Finite32 w) : f32Ext w = ((f32Rat w : WithTop ℚ) : WithBot (WithTop ℚ)) := by
  rw [f32Ext, if_neg h]

/-- The comparison of two patterns that are no NaN is that of their extended values (R212). -/
theorem f32Compare_compares {x y : Word} (hx : isNaN32 x = false) (hy : isNaN32 y = false) :
    ∃ o, f32Compare (f32Value x) (f32Value y) = some o ∧ o.Compares (f32Ext x) (f32Ext y) := by
  obtain ⟨-, hnan⟩ | ⟨hvx, -, -, hcx⟩ | ⟨hvx, -, -, hcx⟩ := f32_classes x
  · rw [hx] at hnan
    cases hnan
  all_goals
    obtain ⟨-, hnan⟩ | ⟨hvy, -, -, hcy⟩ | ⟨hvy, -, -, hcy⟩ := f32_classes y
    · rw [hy] at hnan
      cases hnan
    all_goals refine ⟨_, by rw [hvx, hvy]; rfl, ?_⟩
  · rw [f32Ext_of_inf hcx, f32Ext_of_inf hcy]
    cases f32Sign x <;> cases f32Sign y <;> simp [signedMag, orderOf, Ordering.Compares]
  · rw [f32Ext_of_inf hcx, f32Ext_of_finite hcy]
    cases f32Sign x with
    | false => exact WithBot.coe_lt_coe.2 (WithTop.coe_lt_top _)
    | true => exact WithBot.bot_lt_coe _
  · rw [f32Ext_of_finite hcx, f32Ext_of_inf hcy]
    cases f32Sign y with
    | false => exact WithBot.coe_lt_coe.2 (WithTop.coe_lt_top _)
    | true => exact WithBot.bot_lt_coe _
  · have hc : (0 : ℚ) < 2 ^ (-149 : ℤ) := by positivity
    rw [f32Ext_of_finite hcx, f32Ext_of_finite hcy, f32Rat_eq_signedMag, f32Rat_eq_signedMag]
    have hcmp := orderOf_compares (signedMag (f32Sign x) (gridMag (absNum x))) (signedMag (f32Sign y) (gridMag (absNum y)))
    cases ho : orderOf (signedMag (f32Sign x) (gridMag (absNum x))) (signedMag (f32Sign y) (gridMag (absNum y))) <;>
      rw [ho] at hcmp <;> simp only [Ordering.Compares, WithBot.coe_lt_coe, WithTop.coe_lt_coe, gt_iff_lt] at hcmp ⊢
    · exact mul_lt_mul_of_pos_right (Int.cast_lt.2 hcmp) hc
    · rw [hcmp]
    · exact mul_lt_mul_of_pos_right (Int.cast_lt.2 hcmp) hc

theorem f32Compare_nan {x y : Word} (h : isNaN32 x = true ∨ isNaN32 y = true) :
    f32Compare (f32Value x) (f32Value y) = none := by
  have hnan : ∀ {w : Word}, isNaN32 w = true → f32Value w = .nan := fun {w} hw => by
    obtain ⟨hvalue, -⟩ | ⟨-, hno, -⟩ | ⟨-, hno, -⟩ := f32_classes w
    · exact hvalue
    · rw [hw] at hno
      cases hno
    · rw [hw] at hno
      cases hno
  obtain h | h := h
  · rw [hnan h]
    rfl
  · rw [hnan h]
    cases f32Value x <;> rfl

/-- A command that runs an ordered comparison compares the exact values, when its test of the ordering says the relation. -/
theorem comparesBy_of_orderedCommand {rel : WithBot (WithTop ℚ) → WithBot (WithTop ℚ) → Prop} {test : Ordering → Bool}
    (htest : ∀ {o : Ordering} {x y : WithBot (WithTop ℚ)}, o.Compares x y → (test o = true ↔ rel x y))
    {f : Format} {i : Word → Word → Instr} (hexec : ∀ a b s, exec (i a b) s = orderedCommand f test a b s) :
    ComparesBy rel f i := by
  intro a b s
  refine ⟨_, (hexec a b s).trans (orderedCommand_next f test a b s), boolWord_cases _, ?_⟩
  rw [boolWord_eq_one, ordered]
  cases ha : isNaN32 (decOperand f a) with
  | true => simp [f32Compare_nan (.inl ha)]
  | false =>
    cases hb : isNaN32 (decOperand f b) with
    | true => simp [f32Compare_nan (.inr hb)]
    | false =>
      obtain ⟨o, ho, hcmp⟩ := f32Compare_compares ha hb
      rw [ho]
      simpa using htest hcmp

theorem isLT_iff_lt {α : Type} [Preorder α] {o : Ordering} {x y : α} (h : o.Compares x y) : o.isLT = true ↔ x < y :=
  (by cases o <;> decide : o.isLT = true ↔ o = .lt).trans h.eq_lt

theorem isGT_iff_gt {α : Type} [Preorder α] {o : Ordering} {x y : α} (h : o.Compares x y) : o.isGT = true ↔ x > y :=
  (by cases o <;> decide : o.isGT = true ↔ o = .gt).trans h.eq_gt

theorem isLE_iff_le {α : Type} [LinearOrder α] {o : Ordering} {x y : α} (h : o.Compares x y) : o.isLE = true ↔ x ≤ y :=
  (by cases o <;> decide : o.isLE = true ↔ o ≠ .gt).trans h.ne_gt

theorem isGE_iff_ge {α : Type} [LinearOrder α] {o : Ordering} {x y : α} (h : o.Compares x y) : o.isGE = true ↔ x ≥ y :=
  (by cases o <;> decide : o.isGE = true ↔ o ≠ .lt).trans h.ne_lt

/-- Settles O55: every LT and GT command tests the ordering of the values. -/
theorem ltAndGtCompareValues : Obligations.LtAndGtCompareValues := by
  unfold Obligations.LtAndGtCompareValues
  refine ⟨?_, ?_, ?_, ?_, ?_, ?_, ?_, ?_, ?_, ?_, ?_, ?_, ?_, ?_⟩
  iterate 7 exact comparesBy_of_orderedCommand isLT_iff_lt fun _ _ _ => rfl
  iterate 7 exact comparesBy_of_orderedCommand isGT_iff_gt fun _ _ _ => rfl

/-- Settles O56: every LE and GE command tests the ordering of the values. -/
theorem leAndGeCompareValues : Obligations.LeAndGeCompareValues := by
  unfold Obligations.LeAndGeCompareValues
  refine ⟨?_, ?_, ?_, ?_, ?_, ?_, ?_, ?_, ?_, ?_, ?_, ?_, ?_, ?_⟩
  iterate 7 exact comparesBy_of_orderedCommand isLE_iff_le fun _ _ _ => rfl
  iterate 7 exact comparesBy_of_orderedCommand isGE_iff_ge fun _ _ _ => rfl

end Sys2Proof.Machine
end

section
/-! PROOFS. ENC of the shared formats: specials and sign (R105, R106, R115), and the clamp (R109). -/

namespace Sys2Proof.Machine

open Sys2Proof.Safety Sys2Proof.Exact

/-! ### Specials, widths and signs -/

/-- The fields of the code of an infinite or NaN operand. -/
theorem enc_special {f : Format} (h : isStd f = true) {a : Word} (ha : f32Exp a = 255) :
    enc blockParams f a = packCode f (f32Sign a) (if f32Frac a = 0 then overflowFields f else nanFields f).1
      (if f32Frac a = 0 then overflowFields f else nanFields f).2 := by
  rw [enc_of_isStd h, encStd, encFields, if_pos ha]

/-- Settles O27: the policy gives the fields, and the sign stands above them. -/
theorem encInfinitiesAndNans : Obligations.EncInfinitiesAndNans := by
  unfold Obligations.EncInfinitiesAndNans
  intro a ha
  rw [enc_special rfl ha, enc_special rfl ha, enc_special rfl ha, enc_special rfl ha, enc_special rfl ha]
  by_cases hfrac : f32Frac a = 0
  · simp only [if_pos hfrac]
    cases f32Sign a <;> decide
  · simp only [if_neg hfrac]
    cases f32Sign a <;> decide

theorem encNum_lt {f : Format} (h : isStd f = true) (exp8 frac23 : Nat) :
    encNum f exp8 frac23 < 2 ^ ((formatSpec f).expBits + (formatSpec f).mantBits) := by
  have hbounds : mmax f < 2 ^ ((formatSpec f).expBits + (formatSpec f).mantBits) ∧
      overflowNum f < 2 ^ ((formatSpec f).expBits + (formatSpec f).mantBits) := by
    cases f with
    | e8m0 | bf16 => cases h
    | e5m2 | e4m3fn | e2m3fn | e3m2fn | e2m1fn => decide
  refine (min_le_right _ _).trans_lt ?_
  split
  · exact hbounds.1
  · exact hbounds.2

theorem numFields_lt {f : Format} {n : Nat} (hn : n < 2 ^ ((formatSpec f).expBits + (formatSpec f).mantBits)) :
    n / 2 ^ (formatSpec f).mantBits < 2 ^ (formatSpec f).expBits ∧
      n % 2 ^ (formatSpec f).mantBits < 2 ^ (formatSpec f).mantBits := by
  refine ⟨?_, Nat.mod_lt _ (Nat.two_pow_pos _)⟩
  rwa [Nat.div_lt_iff_lt_mul (Nat.two_pow_pos _), ← pow_add]

/-- On every operand the encoder's fields fit the format (R101). -/
theorem encFields_lt {f : Format} (h : isStd f = true) (a : Word) :
    (encFields blockParams f (f32Exp a) (f32Frac a)).1 < 2 ^ (formatSpec f).expBits ∧
      (encFields blockParams f (f32Exp a) (f32Frac a)).2 < 2 ^ (formatSpec f).mantBits := by
  by_cases ha : f32Exp a = 255
  · have hnan : (nanFields f).1 < 2 ^ (formatSpec f).expBits ∧ (nanFields f).2 < 2 ^ (formatSpec f).mantBits := by
      cases f with
      | e8m0 | bf16 => cases h
      | e5m2 | e4m3fn | e2m3fn | e3m2fn | e2m1fn => decide
    rw [encFields, if_pos ha]
    split
    · exact overflowFields_lt h
    · exact hnan
  · rw [encFields_finite h ha (f32Frac_lt a)]
    exact numFields_lt (encNum_lt h _ _)

/-- Settles O29: only the sign of the packed code reads the operand's sign. -/
theorem encSignSymmetry : Obligations.EncSignSymmetry := by
  unfold Obligations.EncSignSymmetry
  intro f a h
  obtain ⟨hs, he, hf⟩ := fields_xor_signBit a
  obtain ⟨hx, hm⟩ := encFields_lt h a
  rw [enc_of_isStd h, enc_of_isStd h]
  simp only [encStd, hs, he, hf]
  exact packCode_not (isStd_hasSign h) _ hx hm

/-! ### The code of a finite operand is a nearest pattern -/

/-- The least magnitude of a normal code, in units of `2^-149`, and the exponent field that reaches it. -/
theorem f32Mag_lt_iff {f : Format} (h : isStd f = true) {exp8 frac23 : Nat} (hfrac : frac23 < 2 ^ 23) :
    f32Mag exp8 frac23 < 2 ^ (formatSpec f).mantBits * stepMag f ↔ exp8 < minNormalExp f := by
  obtain ⟨hM, -, hbias⟩ := isStd_bounds h
  have hbias1 := one_le_bias h
  have hpow : 2 ^ (formatSpec f).mantBits * stepMag f = 2 ^ 23 * 2 ^ (minNormalExp f - 1) := by
    rw [stepMag, minNormalExp, ← pow_add, ← pow_add]
    congr 1
    omega
  have hle : 2 ^ 23 ≤ 2 ^ 23 * 2 ^ (minNormalExp f - 1) := Nat.le_mul_of_pos_right _ (Nat.two_pow_pos _)
  have hmin : 113 ≤ minNormalExp f := by
    rw [minNormalExp]
    omega
  rw [hpow, f32Mag]
  split
  case isTrue h0 => exact ⟨fun _ => by omega, fun _ => by omega⟩
  case isFalse h0 =>
    constructor
    · intro hlt
      by_contra! hge
      have hmono : 2 ^ (minNormalExp f - 1) ≤ 2 ^ (exp8 - 1) := Nat.pow_le_pow_right two_pos (by omega)
      have := Nat.mul_le_mul (show 2 ^ 23 ≤ 2 ^ 23 + frac23 by omega) hmono
      omega
    · intro hlt
      calc (2 ^ 23 + frac23) * 2 ^ (exp8 - 1) < 2 ^ 24 * 2 ^ (exp8 - 1) :=
            Nat.mul_lt_mul_of_pos_right (by omega) (Nat.two_pow_pos _)
        _ = 2 ^ 23 * 2 ^ (exp8 - 1 + 1) := by ring
        _ ≤ 2 ^ 23 * 2 ^ (minNormalExp f - 1) := Nat.mul_le_mul_left _ (Nat.pow_le_pow_right two_pos (by omega))

/-- The rounded number is a nearest pattern of the format's grid. -/
theorem roundNum_nearest {f : Format} (h : isStd f = true) (exp8 : Nat) {frac23 : Nat} (hfrac : frac23 < 2 ^ 23) :
    NearestOnGrid (formatSpec f).mantBits (f32Mag exp8 frac23) (stepMag f) (roundNum f exp8 frac23) := by
  obtain ⟨hM, -, hbias⟩ := isStd_bounds h
  have hbias1 := one_le_bias h
  refine nearestOnGrid_of_rhe (one_le_mantBits h) (stepMag_pos f) ?_ ?_
  · obtain hsub | hnorm := Nat.lt_or_ge exp8 (minNormalExp f)
    · rw [Nat.sub_eq_zero_of_le hsub.le, pow_zero, mul_one, pow_succ]
      nlinarith [(f32Mag_lt_iff h hfrac).2 hsub]
    · have hpow : 2 ^ ((formatSpec f).mantBits + 1) * 2 ^ (exp8 - minNormalExp f) * stepMag f = 2 ^ 24 * 2 ^ (exp8 - 1) := by
        rw [minNormalExp] at hnorm ⊢
        rw [stepMag, ← pow_add, ← pow_add, ← pow_add]
        congr 1
        omega
      rw [hpow, f32Mag, if_neg (by rw [minNormalExp] at hnorm; omega)]
      exact Nat.mul_le_mul_right _ (by omega)
  · obtain hsub | hnorm := Nat.lt_or_ge exp8 (minNormalExp f)
    · exact .inl (Nat.sub_eq_zero_of_le hsub.le)
    · have hpow : 2 ^ (formatSpec f).mantBits * 2 ^ (exp8 - minNormalExp f) * stepMag f = 2 ^ 23 * 2 ^ (exp8 - 1) := by
        rw [minNormalExp] at hnorm ⊢
        rw [stepMag, ← pow_add, ← pow_add, ← pow_add]
        congr 1
        omega
      rw [hpow, f32Mag, if_neg (by rw [minNormalExp] at hnorm; omega)]
      exact .inr (Nat.mul_le_mul_right _ (by omega))

/-- Twice an operand's magnitude against a number of half steps, in rationals and in units of `2^-149`. -/
theorem scaled_le_iff {f : Format} (h : isStd f = true) (a : Word) (n : Nat) :
    ((n : ℚ) * 2 ^ stepExp f ≤ 2 * |f32Rat a| ↔ n * stepMag f ≤ 2 * f32Mag (f32Exp a) (f32Frac a)) ∧
    ((n : ℚ) * 2 ^ stepExp f < 2 * |f32Rat a| ↔ n * stepMag f < 2 * f32Mag (f32Exp a) (f32Frac a)) := by
  obtain ⟨hM, -, hbias⟩ := isStd_bounds h
  have hstep : (2 : ℚ) ^ stepExp f = (stepMag f : ℚ) * 2 ^ (-149 : ℤ) := by
    rw [stepMag, Nat.cast_pow, Nat.cast_ofNat, ← zpow_natCast, ← zpow_add₀ two_ne_zero, stepExp]
    congr 1
    omega
  have hc : (0 : ℚ) < 2 ^ (-149 : ℤ) := by positivity
  have hleft : (n : ℚ) * 2 ^ stepExp f = ((n * stepMag f : ℕ) : ℚ) * 2 ^ (-149 : ℤ) := by
    rw [hstep, Nat.cast_mul, mul_assoc]
  have hright : 2 * |f32Rat a| = ((2 * f32Mag (f32Exp a) (f32Frac a) : ℕ) : ℚ) * 2 ^ (-149 : ℤ) := by
    rw [abs_f32Rat, Nat.cast_mul, Nat.cast_ofNat, mul_assoc]
  rw [hleft, hright, mul_le_mul_iff_left₀ hc, mul_lt_mul_iff_left₀ hc, Nat.cast_le, Nat.cast_lt]
  exact ⟨Iff.rfl, Iff.rfl⟩

/-- The subnormal numbers are their own multiples of the step. -/
theorem gridVal_of_le {M n : Nat} (h : n ≤ 2 ^ M) : gridVal M n = n := by
  have hval := gridVal_of_sig (M := M) (shift := 0) (sig := n) (h.trans (Nat.pow_le_pow_right two_pos (Nat.le_succ M))) (.inl rfl)
  rwa [Nat.zero_mul, Nat.zero_add, pow_zero, Nat.mul_one] at hval

/-- The clamp range (R109), in units of `2^-149`: below the least normal code, from half a step below it on. -/
theorem inClampRange_iff {f : Format} (h : isStd f = true) (a : Word) : InClampRange f |f32Rat a| ↔
    (2 * 2 ^ (formatSpec f).mantBits - 1) * stepMag f ≤ 2 * f32Mag (f32Exp a) (f32Frac a) ∧
      f32Exp a < minNormalExp f := by
  have hpos : 0 < 2 ^ (formatSpec f).mantBits := Nat.two_pow_pos _
  have hlow : ((2 : ℚ) ^ (formatSpec f).mantBits - 1 / 2) * 2 ^ stepExp f ≤ |f32Rat a| ↔
      ((2 * 2 ^ (formatSpec f).mantBits - 1 : ℕ) : ℚ) * 2 ^ stepExp f ≤ 2 * |f32Rat a| := by
    rw [Nat.cast_sub (by omega)]
    push_cast
    constructor <;> intro hle <;> linarith
  have hhigh : |f32Rat a| < 2 ^ emin f ↔ ¬ (((2 * 2 ^ (formatSpec f).mantBits : ℕ) : ℚ) * 2 ^ stepExp f ≤ 2 * |f32Rat a|) := by
    have hemin : (2 : ℚ) ^ emin f = 2 ^ (formatSpec f).mantBits * 2 ^ stepExp f := by
      rw [← zpow_natCast, ← zpow_add₀ two_ne_zero, emin, stepExp]
      congr 1
      ring
    rw [hemin, not_le]
    push_cast
    constructor <;> intro hlt <;> linarith
  rw [InClampRange, hlow, hhigh, (scaled_le_iff h a _).1, (scaled_le_iff h a _).1, mul_assoc, not_le,
    Nat.mul_lt_mul_left two_pos, f32Mag_lt_iff h (f32Frac_lt a)]

/-- Settles O30: in the range the rounded number is not below the largest subnormal one, which the clamp then gives. -/
theorem encClampRanges : Obligations.EncClampRanges := by
  unfold Obligations.EncClampRanges
  constructor
  · intro f a h ha hclamp
    obtain ⟨hlow, hsub⟩ := (inClampRange_iff h a).1 hclamp
    have hpos : 0 < 2 ^ (formatSpec f).mantBits := Nat.two_pow_pos _
    have hround : mmax f ≤ roundNum f (f32Exp a) (f32Frac a) := by
      refine (roundNum_nearest h _ (f32Frac_lt a)).le_of_gridVal_le (stepMag_pos f) ?_
      rw [gridVal_of_le (by rw [mmax]; omega)]
      have : 2 * mmax f * stepMag f ≤ (2 * 2 ^ (formatSpec f).mantBits - 1) * stepMag f :=
        Nat.mul_le_mul_right _ (by rw [mmax]; omega)
      linarith
    rw [enc_finite h ha, encNum, if_pos hsub, min_eq_right hround]
    cases f with
    | e8m0 | bf16 => cases h
    | e5m2 | e4m3fn | e2m3fn | e3m2fn | e2m1fn => cases f32Sign a <;> decide
  · intro mag
    simp only [InClampRange, formatSpec, stepExp, emin]
    norm_num

end Sys2Proof.Machine
end

section
/-! PROOFS. ENC of the shared formats, continued: overflow (R111, R114), and the nearest value elsewhere (R100). -/

namespace Sys2Proof.Machine

open Sys2Proof.Safety Sys2Proof.Exact

/-! ### Overflow -/

/-- The values of the largest finite codes (R23), on the grid. -/
theorem maxFinite_eq {f : Format} (h : isStd f = true) :
    maxFinite f = (gridVal (formatSpec f).mantBits (maxNum f) : ℚ) * 2 ^ stepExp f := by
  cases f with
  | e8m0 | bf16 => cases h
  | e5m2 =>
    rw [show gridVal (formatSpec .e5m2).mantBits (maxNum .e5m2) = 7 * 2 ^ 29 from rfl]
    norm_num [maxFinite, stepExp, formatSpec]
  | e4m3fn =>
    rw [show gridVal (formatSpec .e4m3fn).mantBits (maxNum .e4m3fn) = 7 * 2 ^ 15 from rfl]
    norm_num [maxFinite, stepExp, formatSpec]
  | e2m3fn | e3m2fn | e2m1fn =>
    norm_num [maxFinite, gridVal, maxNum, overflowNum, overflowFields, emaxf, mmax, stepExp, formatSpec]

/-- Rounded to the overflow number or beyond, an operand gets the overflow code. -/
theorem enc_of_overflow {f : Format} (h : isStd f = true) {a : Word} (ha : Finite32 a)
    (hround : overflowNum f ≤ roundNum f (f32Exp a) (f32Frac a)) :
    enc blockParams f a = packNum f (f32Sign a) (overflowNum f) := by
  have hnorm : ¬ f32Exp a < minNormalExp f := by
    intro hsub
    have hlt : 2 ^ (formatSpec f).mantBits < overflowNum f := by
      cases f with
      | e8m0 | bf16 => cases h
      | e5m2 | e4m3fn | e2m3fn | e3m2fn | e2m1fn => decide
    have hle : roundNum f (f32Exp a) (f32Frac a) ≤ 2 ^ (formatSpec f).mantBits :=
      (roundNum_nearest h _ (f32Frac_lt a)).le_of_le_gridVal (stepMag_pos f)
        (by rw [gridVal_of_le le_rfl]; exact ((f32Mag_lt_iff h (f32Frac_lt a)).2 hsub).le)
    omega
  rw [enc_finite h ha, encNum, if_neg hnorm, min_eq_right hround]

/-- The FiniteSaturating formats reach their overflow code from their largest finite value on (R114). -/
theorem enc_of_saturation {f : Format} (hpolicy : (formatSpec f).policy = .finiteSaturating) {a : Word} (ha : Finite32 a)
    (hmax : maxFinite f ≤ |f32Rat a|) : enc blockParams f a = packNum f (f32Sign a) (overflowNum f) := by
  have h := isStd_of_saturating hpolicy
  refine enc_of_overflow h ha ((roundNum_nearest h _ (f32Frac_lt a)).le_of_gridVal_le (stepMag_pos f) ?_)
  have hle := (scaled_le_iff h a (2 * gridVal (formatSpec f).mantBits (overflowNum f))).1.1 (by
    rw [maxFinite_eq h, maxNum, if_pos hpolicy] at hmax
    push_cast
    linarith)
  rw [Nat.mul_assoc] at hle
  exact Nat.le_of_mul_le_mul_left hle two_pos

/-- Settles O31: each threshold is a point of the grid, or the middle between the last finite code and the overflow code. -/
theorem encOverflow : Obligations.EncOverflow := by
  unfold Obligations.EncOverflow
  intro a ha
  refine ⟨fun hle => ?_, fun hlt => ?_, fun heq => ?_, fun hle => ?_, fun hle => ?_, fun hle => ?_⟩
  · have hmid := (scaled_le_iff (f := .e5m2) rfl a (gridVal 2 123 + gridVal 2 124)).1.1 (by
      norm_num [gridVal, stepExp, formatSpec]
      linarith)
    rw [enc_of_overflow (f := .e5m2) rfl ha ((roundNum_nearest (f := .e5m2) rfl _ (f32Frac_lt a)).succ_le (k := 123)
      (stepMag_pos .e5m2) hmid (.inl rfl))]
    cases f32Sign a <;> decide
  · have hmid := (scaled_le_iff (f := .e4m3fn) rfl a (gridVal 3 126 + gridVal 3 127)).2.1 (by
      norm_num [gridVal, stepExp, formatSpec]
      linarith)
    rw [enc_of_overflow (f := .e4m3fn) rfl ha ((roundNum_nearest (f := .e4m3fn) rfl _ (f32Frac_lt a)).succ_le (k := 126)
      (stepMag_pos .e4m3fn) hmid.le (.inr hmid))]
    cases f32Sign a <;> decide
  · obtain ⟨-, -, ⟨-, h464⟩, -⟩ := Tests.witness_overflow
    have hnum : absNum a = absNum 0x43E80000#32 := abs_f32Rat_inj.1 (heq.trans h464.symm)
    have hfrac := f32Frac_lt a
    rw [absNum_eq, show absNum 0x43E80000#32 = 135 * 2 ^ 23 + 0x680000 from rfl] at hnum
    rw [enc_finite rfl ha, show f32Exp a = 135 by omega, show f32Frac a = 0x680000 by omega]
    cases f32Sign a <;> decide +kernel
  · rw [enc_of_saturation (f := .e2m3fn) rfl ha hle]
    cases f32Sign a <;> decide
  · rw [enc_of_saturation (f := .e3m2fn) rfl ha hle]
    cases f32Sign a <;> decide
  · rw [enc_of_saturation (f := .e2m1fn) rfl ha hle]
    cases f32Sign a <;> decide

/-! ### The nearest value -/

/-- Outside the clamp range and up to the largest finite magnitude, the code is the rounded number itself, and a finite code. -/
theorem encNum_eq_roundNum {f : Format} (h : isStd f = true) {a : Word} (hmax : |f32Rat a| ≤ maxFinite f)
    (hclamp : ¬ InClampRange f |f32Rat a|) : encNum f (f32Exp a) (f32Frac a) = roundNum f (f32Exp a) (f32Frac a) ∧
      roundNum f (f32Exp a) (f32Frac a) ≤ maxNum f := by
  have hnear := roundNum_nearest h (f32Exp a) (f32Frac_lt a)
  have hle : roundNum f (f32Exp a) (f32Frac a) ≤ maxNum f := by
    refine hnear.le_of_le_gridVal (stepMag_pos f) ?_
    have hnot := mt (scaled_le_iff h a (2 * gridVal (formatSpec f).mantBits (maxNum f))).2.2 (by
      rw [maxFinite_eq h] at hmax
      push_cast
      linarith)
    rw [Nat.mul_assoc, Nat.mul_lt_mul_left two_pos, not_lt] at hnot
    exact hnot
  have hover : maxNum f ≤ overflowNum f := by
    rw [maxNum]
    split <;> omega
  refine ⟨min_eq_left ?_, hle⟩
  split
  case isTrue hsub =>
    have hpos : 0 < 2 ^ (formatSpec f).mantBits := Nat.two_pow_pos _
    have hmid : gridVal (formatSpec f).mantBits (mmax f) + gridVal (formatSpec f).mantBits (mmax f + 1) =
        2 * 2 ^ (formatSpec f).mantBits - 1 := by
      rw [gridVal_of_le (by rw [mmax]; omega), gridVal_of_le (by rw [mmax]; omega), mmax]
      omega
    refine hnear.le (stepMag_pos f) ?_
    rw [hmid]
    by_contra! hge
    exact hclamp ((inClampRange_iff h a).2 ⟨hge, hsub⟩)
  case isFalse hnorm => exact hle.trans hover

theorem maxNum_lt {f : Format} (h : isStd f = true) : maxNum f < 2 ^ ((formatSpec f).expBits + (formatSpec f).mantBits) := by
  cases f with
  | e8m0 | bf16 => cases h
  | e5m2 | e4m3fn | e2m3fn | e3m2fn | e2m1fn => decide

/-- The number and the sign of a packed code, and its lowest bit. -/
theorem codeNum_packNum {f : Format} (h : isStd f = true) (s : Bool) {n : Nat}
    (hn : n < 2 ^ ((formatSpec f).expBits + (formatSpec f).mantBits)) :
    codeNum f (packNum f s n) = n ∧ codeSign f (packNum f s n) = s ∧
      (n % 2 = 0 → (packNum f s n).getLsbD 0 = false) := by
  obtain ⟨hx, hm⟩ := numFields_lt hn
  refine ⟨?_, codeSign_packCode (isStd_hasSign h) hx hm, fun heven => ?_⟩
  · rw [codeNum, packNum, codeExp_packCode hx hm, codeMant_packCode hx hm, Nat.div_add_mod']
  · obtain ⟨j, hj⟩ := Nat.exists_eq_add_of_le ((one_le_mantBits h).trans (Nat.le_add_left _ (formatSpec f).expBits))
    rw [BitVec.getLsbD, Nat.testBit_zero, packNum, toNat_packCode s hx hm, Nat.div_add_mod', hj, pow_add, pow_one,
      show s.toNat * (2 * 2 ^ j) = 2 * (s.toNat * 2 ^ j) by ring, Nat.mul_add_mod, heven]
    rfl

/-- A code that decodes to a finite pattern is no special one. -/
theorem codeNum_le_of_finite {f : Format} (h : isStd f = true) {c : Word} (hc : Finite32 (decOperand f c)) :
    codeNum f c ≤ maxNum f := by
  by_contra! hlt
  have hdec := decOperand_special h hlt
  split at hdec
  · exact hc (hdec ▸ ((isInf32_iff _).1 (isInf32_f32Inf _)).1)
  · exact hc (hdec ▸ ((isNaN32_iff _).1 (isNaN32_decNan _)).1)

/-- The comparison of two patterns of the grid, with the patterns scaled to the operand's unit. -/
theorem NearestOnGrid.scaled {M num den n : Nat} (h : NearestOnGrid M num den n) (k : Nat) :
    |(num : ℤ) - (gridVal M n * den : ℕ) * (1 : ℕ)| ≤ |(num : ℤ) - (gridVal M k * den : ℕ) * (1 : ℕ)| ∧
    (|(num : ℤ) - (gridVal M n * den : ℕ) * (1 : ℕ)| = |(num : ℤ) - (gridVal M k * den : ℕ) * (1 : ℕ)| →
      gridVal M k * den ≠ gridVal M n * den → n % 2 = 0) := by
  simp only [Nat.cast_one, mul_one, Nat.cast_mul]
  exact ⟨(h k).1, fun heq hne => (h k).2 heq fun hval => hne (by rw [hval])⟩

/-- Settles O32: the rounded number is a nearest pattern of the format's grid, and a code of the other sign is no nearer than 0. -/
theorem encIsNearestOutsideTheClamp : Obligations.EncIsNearestOutsideTheClamp := by
  unfold Obligations.EncIsNearestOutsideTheClamp
  intro f a h ha hmax hclamp
  obtain ⟨hnum, hle⟩ := encNum_eq_roundNum h hmax hclamp
  have hnear := roundNum_nearest h (f32Exp a) (f32Frac_lt a)
  rw [enc_finite h ha, hnum]
  have hvalue : f32Rat a = (if f32Sign a then -1 else 1) *
      ((f32Mag (f32Exp a) (f32Frac a) : ℚ) / (1 : ℕ) * 2 ^ (-149 : ℤ)) := by
    rw [f32Rat_eq_mag, Nat.cast_one, div_one]
  generalize f32Mag (f32Exp a) (f32Frac a) = mag at hnear hvalue
  generalize roundNum f (f32Exp a) (f32Frac a) = n at hle hnear ⊢
  obtain ⟨hcode, hcodeSign, hlsb⟩ := codeNum_packNum h (f32Sign a) (hle.trans_lt (maxNum_lt h))
  obtain ⟨hfinite, hsign, hgrid⟩ := decOperand_finite h (c := packNum f (f32Sign a) n) (hcode.symm ▸ hle)
  rw [hcode] at hgrid
  rw [hcodeSign] at hsign
  refine ⟨hfinite, fun c hc => ?_⟩
  obtain ⟨-, -, hgridc⟩ := decOperand_finite h (codeNum_le_of_finite h hc)
  generalize packNum f (f32Sign a) n = c₀ at hlsb hfinite hsign hgrid ⊢
  have hdist := fun w => abs_sub_f32Rat (f32Sign a) mag Nat.one_pos w
  obtain ⟨hnear0, htie0⟩ := hnear.scaled 0
  obtain ⟨hnearc, htiec⟩ := hnear.scaled (codeNum f c)
  rw [gridVal_of_le (Nat.zero_le _), Nat.zero_mul] at hnear0 htie0
  obtain ⟨hmain, hmainTie⟩ := nearest_of_grid (P := f32Sign (decOperand f c) = f32Sign a) (x := f32Rat (decOperand f c))
    (y := f32Rat (decOperand f c₀)) Nat.one_pos (by positivity : (0 : ℚ) < 2 ^ (-149 : ℤ) / (1 : ℕ))
    hnearc htiec hnear0 htie0
    (fun hs hg => by rw [f32Rat_eq_gridMag, f32Rat_eq_gridMag (decOperand f c₀), hgrid, hgridc, hs, hsign, hg])
    (fun hg h0 => by rw [f32Rat_eq_gridMag, f32Rat_eq_gridMag (decOperand f c₀), hgrid, hgridc, hg, ← h0]; simp)
  have hd₀ := hdist (decOperand f c₀)
  have hd := hdist (decOperand f c)
  rw [← hvalue, ← absNum, hgrid, if_pos hsign] at hd₀
  rw [← hvalue, ← absNum, hgridc] at hd
  rw [hd₀, hd]
  exact ⟨hmain, fun heq hne => hlsb (hmainTie heq hne)⟩

end Sys2Proof.Machine
end

section
/-! PROOFS. ENC of the shared formats is the algorithm of R105 on exact numbers, branch by branch. -/

namespace Sys2Proof.Machine

open Sys2Proof.Safety Sys2Proof.Exact

theorem ofInt_eq_ofNat_toNat {z : ℤ} (h : 0 ≤ z) : BitVec.ofInt 32 z = BitVec.ofNat 32 z.toNat := by
  obtain ⟨n, rfl⟩ := Int.eq_ofNat_of_zero_le h
  exact BitVec.ofInt_natCast 32 n

/-- The exact numbers that R105 rounds, as the integer rounder's quotients. -/
theorem rheRat_step {f : Format} (h : isStd f = true) (a : Word) :
    rheRat (|f32Rat a| / 2 ^ stepExp f) = rhe (f32Mag (f32Exp a) (f32Frac a)) (2 ^ (149 + stepExp f).toNat) := by
  obtain ⟨hM, -, hbias⟩ := isStd_bounds h
  have hnonneg : 0 ≤ 149 + stepExp f := by
    rw [stepExp]
    omega
  have hstep : ((2 ^ (149 + stepExp f).toNat : ℕ) : ℚ) = 2 ^ (149 : ℤ) * 2 ^ stepExp f := by
    rw [Nat.cast_pow, Nat.cast_ofNat, ← zpow_natCast, Int.toNat_of_nonneg hnonneg, zpow_add₀ two_ne_zero]
  rw [rhe_eq_rheRat _ (Nat.two_pow_pos _), hstep, abs_f32Rat, zpow_neg, Int.cast_natCast]
  congr 1
  field_simp

theorem rheRat_frac {M : Nat} (frac23 : Nat) : rheRat ((frac23 : ℚ) / 2 ^ (23 - M)) = rhe frac23 (2 ^ (23 - M)) := by
  rw [rhe_eq_rheRat _ (Nat.two_pow_pos _)]
  push_cast
  rfl

section Branches

variable {f : Format} (s : Bool)

/-- The code of an overflow: infinity or the largest code (R111). -/
theorem packCode_overflowFields : packCode f s (overflowFields f).1 (overflowFields f).2 =
    if (formatSpec f).policy = .ieeeLike
    then BitVec.ofNat 32 s.toNat <<< ((formatSpec f).expBits + (formatSpec f).mantBits) |||
      BitVec.ofNat 32 (emaxf f) <<< (formatSpec f).mantBits
    else BitVec.ofNat 32 s.toNat <<< ((formatSpec f).expBits + (formatSpec f).mantBits) |||
      BitVec.ofNat 32 (emaxf f) <<< (formatSpec f).mantBits ||| BitVec.ofNat 32 (mmax f) := by
  rw [overflowFields, packCode]
  cases (formatSpec f).policy with
  | ieeeLike => exact BitVec.or_zero
  | finiteWithNanSentinel | finiteSaturating | powerOfTwoScale => rfl

/-- The code of a NaN operand (R106, D9). -/
theorem packCode_nanFields {f : Format} (h : isStd f = true) : packCode f s (nanFields f).1 (nanFields f).2 =
    if (formatSpec f).policy = .ieeeLike
    then BitVec.ofNat 32 s.toNat <<< ((formatSpec f).expBits + (formatSpec f).mantBits) |||
      BitVec.ofNat 32 (emaxf f) <<< (formatSpec f).mantBits ||| 1#32 <<< ((formatSpec f).mantBits - 1)
    else BitVec.ofNat 32 s.toNat <<< ((formatSpec f).expBits + (formatSpec f).mantBits) |||
      BitVec.ofNat 32 (emaxf f) <<< (formatSpec f).mantBits ||| BitVec.ofNat 32 (mmax f) := by
  cases f with
  | e8m0 | bf16 => cases h
  | e5m2 | e4m3fn | e2m3fn | e3m2fn | e2m1fn => rfl

/-- Step 4a (R109) on exact numbers. -/
theorem packCode_subnormalFields {f : Format} (h : isStd f = true) (a : Word) :
    packCode f s (subnormalFields blockParams f (f32Mag (f32Exp a) (f32Frac a))).1
        (subnormalFields blockParams f (f32Mag (f32Exp a) (f32Frac a))).2 =
      BitVec.ofNat 32 s.toNat <<< ((formatSpec f).expBits + (formatSpec f).mantBits) |||
        BitVec.ofInt 32 (min (max (rheRat (|f32Rat a| / 2 ^ stepExp f)) 0) (mmax f)) := by
  rw [rheRat_step h, ofInt_eq_ofNat_toNat (le_min (le_max_right _ _) (Int.natCast_nonneg _)), subnormalFields,
    if_neg fun hcarry => nomatch hcarry.1]
  simp only [packCode, BitVec.zero_shiftLeft, BitVec.or_zero]

/-- Steps 4b to 4e (R110, R111, R113) on exact numbers. -/
theorem packCode_normalFields {e : ℤ} (he : emin f ≤ e) {frac23 : Nat} :
    packCode f s (normalFields f e frac23).1 (normalFields f e frac23).2 =
      (let mq := rheRat ((frac23 : ℚ) / 2 ^ (23 - (formatSpec f).mantBits))
      let carried := mq = 2 ^ (formatSpec f).mantBits
      let e' := if carried then e + 1 else e
      if e' > emax f then packCode f s (overflowFields f).1 (overflowFields f).2
      else BitVec.ofNat 32 s.toNat <<< ((formatSpec f).expBits + (formatSpec f).mantBits) |||
        (BitVec.ofInt 32 (e' + (formatSpec f).bias) <<< (formatSpec f).mantBits) |||
        BitVec.ofInt 32 (if carried then 0 else mq)) := by
  have hmq := rhe_nonneg (den := 2 ^ (23 - (formatSpec f).mantBits)) (Nat.two_pow_pos _) (Int.natCast_nonneg frac23)
  rw [emin] at he
  rw [rheRat_frac]
  simp only [normalFields]
  generalize rhe frac23 (2 ^ (23 - (formatSpec f).mantBits)) = mq at hmq ⊢
  by_cases hover : (if mq = 2 ^ (formatSpec f).mantBits then e + 1 else e) > emax f
  · rw [if_pos hover, if_pos hover]
  · rw [if_neg hover, if_neg hover, packCode]
    have hbiased : 0 ≤ (if mq = 2 ^ (formatSpec f).mantBits then e + 1 else e) + ((formatSpec f).bias : ℤ) := by
      split <;> omega
    rw [ofInt_eq_ofNat_toNat hbiased]
    split
    · rfl
    · rw [ofInt_eq_ofNat_toNat hmq]

end Branches

/-- The encoder on integers and the algorithm of R105 on exact numbers give one code. -/
theorem encStd_eq_encStdRat {f : Format} (h : isStd f = true) (a : Word) : encStd blockParams f a = encStdRat f a := by
  rw [encStd, encStdRat, encFields]
  by_cases hspecial : f32Exp a = 255
  · simp only [if_pos hspecial]
    by_cases hfrac : f32Frac a = 0
    · simp only [if_pos hfrac, packCode_overflowFields]
    · simp only [if_neg hfrac, packCode_nanFields _ h]
  simp only [if_neg hspecial]
  by_cases hzero : f32Exp a = 0 ∧ f32Frac a = 0
  · simp only [if_pos hzero, packCode, BitVec.zero_shiftLeft, BitVec.or_zero]
  simp only [if_neg hzero]
  by_cases hsub : (if f32Exp a = 0 then -126 else (f32Exp a : ℤ) - 127) < emin f
  · simp only [if_pos hsub, packCode_subnormalFields _ h]
  · simp only [if_neg hsub, packCode_normalFields _ (not_lt.1 hsub), packCode_overflowFields]

/-- Settles O23. -/
theorem encStdIsTheExactAlgorithm : Obligations.EncStdIsTheExactAlgorithm := by
  unfold Obligations.EncStdIsTheExactAlgorithm
  have hcode : ∀ {f : Format} {i : Word → Instr}, isStd f = true → (∀ a, (i a).op = .enc ∧ (i a).fmt = f ∧ (i a).opA = a) →
      EncodesAsR105 f i := by
    intro f i h hi a s
    obtain ⟨hop, hfmt, hopA⟩ := hi a
    rw [exec_enc hop, hfmt, hopA, enc_of_isStd h, encStd_eq_encStdRat h]
  exact ⟨hcode rfl fun _ => ⟨rfl, rfl, rfl⟩, hcode rfl fun _ => ⟨rfl, rfl, rfl⟩, hcode rfl fun _ => ⟨rfl, rfl, rfl⟩,
    hcode rfl fun _ => ⟨rfl, rfl, rfl⟩, hcode rfl fun _ => ⟨rfl, rfl, rfl⟩⟩

end Sys2Proof.Machine
end

section
/-! PROOFS. ENC.e8m0 by cases (R116 to R118), the width of the code results (R66), and the codes of a NaN result (R205). -/

namespace Sys2Proof.Machine

open Sys2Proof.Safety Sys2Proof.Exact

/-! ### ENC.e8m0 -/

/-- The rounded exponent of a positive magnitude in units of `2^-149` (R118). -/
def p2Exp (mag : Nat) : ℤ :=
  if belowP2Threshold .exact mag (Nat.log2 mag + 1) then (Nat.log2 mag + 1 : ℤ) - 149 - 1 else (Nat.log2 mag + 1 : ℤ) - 149

theorem enc_e8m0_nan {a : Word} (h : isNaN32 a = true) : enc blockParams .e8m0 a = 0xFF#32 := by
  obtain ⟨hexp, hfrac⟩ := (isNaN32_iff a).1 h
  change encP2 blockParams a = _
  rw [encP2, f32Value, if_pos hexp, if_neg hfrac]

theorem enc_e8m0_inf {a : Word} (h : isInf32 a = true) :
    enc blockParams .e8m0 a = if f32Sign a then 0xFF#32 else 0xFE#32 := by
  obtain ⟨hexp, hfrac⟩ := (isInf32_iff a).1 h
  change encP2 blockParams a = _
  rw [encP2, f32Value, if_pos hexp, if_pos hfrac]
  cases f32Sign a <;> rfl

theorem enc_e8m0_zero {a : Word} (ha : Finite32 a) (h : f32Mag (f32Exp a) (f32Frac a) = 0) :
    enc blockParams .e8m0 a = 0x00#32 := by
  change encP2 blockParams a = _
  rw [encP2, f32Value, if_neg ha]
  simp only [if_pos h]
  exact ite_self _

theorem enc_e8m0_neg {a : Word} (ha : Finite32 a) (h : f32Mag (f32Exp a) (f32Frac a) ≠ 0) (hs : f32Sign a = true) :
    enc blockParams .e8m0 a = 0xFF#32 := by
  change encP2 blockParams a = _
  rw [encP2, f32Value, if_neg ha]
  simp only [if_neg h, if_pos hs]

theorem enc_e8m0_pos {a : Word} (ha : Finite32 a) (h : f32Mag (f32Exp a) (f32Frac a) ≠ 0) (hs : f32Sign a = false) :
    enc blockParams .e8m0 a =
      BitVec.ofNat 32 (min (max (p2Exp (f32Mag (f32Exp a) (f32Frac a)) + 127) 0) 254).toNat := by
  change encP2 blockParams a = _
  rw [encP2, f32Value, if_neg ha]
  simp only [if_neg h, hs, Bool.false_eq_true, if_false]
  rfl

theorem enc_e8m0_le (a : Word) : (enc blockParams .e8m0 a).toNat ≤ 255 := by
  by_cases ha : f32Exp a = 255
  · by_cases hfrac : f32Frac a = 0
    · rw [enc_e8m0_inf ((isInf32_iff a).2 ⟨ha, hfrac⟩)]
      cases f32Sign a <;> decide
    · rw [enc_e8m0_nan ((isNaN32_iff a).2 ⟨ha, hfrac⟩)]
      decide
  by_cases hmag : f32Mag (f32Exp a) (f32Frac a) = 0
  · rw [enc_e8m0_zero ha hmag]
    decide
  cases hs : f32Sign a with
  | true =>
    rw [enc_e8m0_neg ha hmag hs]
    decide
  | false =>
    rw [enc_e8m0_pos ha hmag hs, BitVec.toNat_ofNat]
    omega

/-! ### Width -/

theorem enc_bf16_le (a : Word) : enc blockParams .bf16 a ≤ 0xFFFF#32 := by
  rw [BitVec.le_def, enc_bf16, encTrunc_eq_ushiftRight, BitVec.toNat_ushiftRight, Nat.shiftRight_eq_div_pow]
  exact Nat.le_of_lt_succ (Nat.div_lt_of_lt_mul a.isLt)

/-- An encoded code fits its format. -/
theorem codeOperand_enc (f : Format) (a : Word) : codeOperand f (enc blockParams f a) = enc blockParams f a := by
  cases hstd : isStd f with
  | true =>
    obtain ⟨hx, hm⟩ := encFields_lt hstd a
    rw [enc_of_isStd hstd, encStd]
    exact codeOperand_packCode (isStd_hasSign hstd) hx hm
  | false =>
    apply BitVec.eq_of_toNat_eq
    rw [toNat_codeOperand_eq_mod]
    apply Nat.mod_eq_of_lt
    cases f with
    | e5m2 | e4m3fn | e2m3fn | e3m2fn | e2m1fn => cases hstd
    | e8m0 => exact Nat.lt_succ_of_le (enc_e8m0_le a)
    | bf16 => exact Nat.lt_succ_of_le (BitVec.le_def.1 (enc_bf16_le a))

theorem codeOperand_negCode (f : Format) (a : Word) : codeOperand f (negCode f a) = negCode f a := by
  rw [negCode, codeOperand_xor_smask, codeOperand_idem]

/-- A code result fits the format, whatever the draw. -/
theorem codeOperand_resultWithDraw {i : Instr} (h : givesCode i.op = true) (z : Word) :
    codeOperand i.fmt (resultWithDraw i z) = resultWithDraw i z := by
  rw [resultWithDraw]
  cases hop : i.op with
  | dec | isnz | eq | ne | lt | le | gt | ge => simp [hop, givesCode] at h
  | enc => exact codeOperand_enc i.fmt i.opA
  | neg => exact codeOperand_negCode i.fmt i.opA
  | add | sub | mul | div =>
    rw [resultWord, Option.getD_map]
    exact codeOperand_enc i.fmt _

/-- Settles O11. -/
theorem codeResultsAreZeroExtended : Obligations.CodeResultsAreZeroExtended := by
  unfold Obligations.CodeResultsAreZeroExtended
  intro i s h
  obtain ⟨t, hnext, -, hresponses⟩ := exec_next_result i s
  refine ⟨_, t, hnext, hresponses, ?_⟩
  rw [← codeOperand_resultWithDraw h, codeOperand, BitVec.and_assoc, BitVec.and_not_self]
  exact BitVec.and_zero

/-! ### NaN results -/

/-- A pattern with bits 30 to 22 set is a NaN. -/
theorem fields_of_quietNan {z : Word} (h : z.extractLsb' 22 9 = 0x1FF#9) : f32Exp z = 255 ∧ 2 ^ 22 ≤ f32Frac z := by
  have hbits : z.toNat / 2 ^ 22 % 2 ^ 9 = 511 := by
    have hto := congrArg BitVec.toNat h
    rwa [BitVec.extractLsb'_toNat, Nat.shiftRight_eq_div_pow] at hto
  have hexp : f32Exp z = z.toNat / 2 ^ 23 % 2 ^ 8 := by
    rw [f32Exp, BitVec.extractLsb'_toNat, Nat.shiftRight_eq_div_pow]
  have hfrac : f32Frac z = z.toNat / 2 ^ 0 % 2 ^ 23 := by
    rw [f32Frac, BitVec.extractLsb'_toNat, Nat.shiftRight_eq_div_pow]
  omega

/-- The draw is a quiet NaN. -/
theorem arithNan_quiet (s : State) : (arithNan s).extractLsb' 22 9 = 0x1FF#9 := by
  rw [arithNan]
  generalize (Config.arithNan s.draws).extractLsb' 22 1 = sign
  generalize (Config.arithNan s.draws).extractLsb' 0 22 = payload
  have hpayload := payload.isLt
  apply BitVec.eq_of_toNat_eq
  rw [BitVec.extractLsb'_toNat, BitVec.toNat_append, BitVec.toNat_append, Nat.shiftLeft_eq, Nat.shiftLeft_eq,
    Nat.mul_comm _ (2 ^ 22), ← Nat.two_pow_add_eq_or_of_lt hpayload, Nat.mul_comm _ (2 ^ 9),
    ← Nat.two_pow_add_eq_or_of_lt (by decide), Nat.shiftRight_eq_div_pow]
  change _ % 2 ^ 9 = 511
  change (2 ^ 22 * (2 ^ 9 * sign.toNat + 511) + payload.toNat) / 2 ^ 22 % 2 ^ 9 = 511
  omega

/-- The truncated code of a quiet NaN keeps the quiet bit. -/
theorem enc_bf16_quietNan {z : Word} (hexp : f32Exp z = 255) (hfrac : 2 ^ 22 ≤ f32Frac z) :
    enc blockParams .bf16 z &&& 0x7FFF#32 ≥ 0x7FC0#32 := by
  have hz := toNat_eq_fields z
  have hlt := f32Frac_lt z
  have hmask : (0x7FFF#32).toNat = 2 ^ 15 - 1 := rfl
  rw [ge_iff_le, BitVec.le_def, enc_bf16, encTrunc_eq_ushiftRight, BitVec.toNat_and, BitVec.toNat_ushiftRight,
    Nat.shiftRight_eq_div_pow, hmask, Nat.and_two_pow_sub_one_eq_mod]
  change 0x7FC0 ≤ _
  omega

/-- Settles O52: a quiet NaN is a NaN, and its code reads the sign alone, the top half in bfloat16. -/
theorem nanResultCodes : Obligations.NanResultCodes := by
  unfold Obligations.NanResultCodes
  refine ⟨arithNan_quiet, fun z hz => ?_⟩
  obtain ⟨hexp, hfrac⟩ := fields_of_quietNan hz
  have hnan : isNaN32 z = true := (isNaN32_iff z).2 ⟨hexp, by omega⟩
  obtain ⟨he5m2, he4m3fn, he2m3fn, he3m2fn, he2m1fn⟩ := encInfinitiesAndNans z hexp
  rw [if_neg (by omega : f32Frac z ≠ 0)] at he5m2
  refine ⟨hnan, ?_, ?_, enc_e8m0_nan hnan, ?_, ?_, ?_, ?_⟩
  · rw [he5m2]
    cases f32Sign z <;> decide
  · rw [he4m3fn]
    cases f32Sign z <;> decide
  · exact ⟨enc_bf16_quietNan hexp hfrac, enc_bf16_le z⟩
  · rw [he2m3fn]
    cases f32Sign z <;> decide
  · rw [he3m2fn]
    cases f32Sign z <;> decide
  · rw [he2m1fn]
    cases f32Sign z <;> decide

end Sys2Proof.Machine
end

section
/-! PROOFS. The threshold of ENC.e8m0: in bits (R118), and as `sqrt 2 / 2` (R117, D12). -/

namespace Sys2Proof.Machine

open Sys2Proof.Safety Sys2Proof.Exact

theorem exec_encE8m0 (a : Word) (s : State) : exec (.encE8m0 a) s = .next (answered (enc blockParams .e8m0 a) s) :=
  exec_enc rfl s

/-- The rounded exponent of a scaled significand: the test reads the significand alone. -/
theorem p2Exp_mul_pow {sig d : Nat} (hlo : 2 ^ d ≤ sig) (hhi : sig < 2 ^ (d + 1)) (j : Nat) :
    p2Exp (sig * 2 ^ j) = if 2 * sig ^ 2 < 2 ^ (2 * (d + 1)) then (d + j : ℤ) - 149 else (d + j : ℤ) - 148 := by
  have hpos : 0 < 2 ^ j := Nat.two_pow_pos j
  have hsig : 0 < sig := (Nat.two_pow_pos d).trans_le hlo
  have hlog : Nat.log2 (sig * 2 ^ j) = d + j := by
    refine (Nat.log2_eq_iff (Nat.mul_pos hsig hpos).ne').2 ⟨?_, ?_⟩
    · rw [pow_add]
      exact Nat.mul_le_mul_right _ hlo
    · rw [Nat.add_right_comm, pow_add]
      exact Nat.mul_lt_mul_of_pos_right hhi hpos
  have htest : 2 * (sig * 2 ^ j) ^ 2 < 2 ^ (2 * (d + j + 1)) ↔ 2 * sig ^ 2 < 2 ^ (2 * (d + 1)) := by
    rw [mul_pow, ← mul_assoc, ← pow_mul, show 2 * (d + j + 1) = 2 * (d + 1) + j * 2 by ring, pow_add,
      Nat.mul_lt_mul_right (Nat.two_pow_pos _)]
  simp only [p2Exp, belowP2Threshold, hlog, htest, decide_eq_true_eq]
  split <;> push_cast <;> ring

theorem p2Exp_of_bounds {mag d : Nat} (hlo : 2 ^ d ≤ mag) (hhi : mag < 2 ^ (d + 1)) :
    p2Exp mag = if 2 * mag ^ 2 < 2 ^ (2 * (d + 1)) then (d : ℤ) - 149 else (d : ℤ) - 148 := by
  have h := p2Exp_mul_pow hlo hhi 0
  rwa [pow_zero, Nat.mul_one, Nat.cast_zero, add_zero] at h

/-- A square against a constant, through its integer square root. -/
theorem two_mul_sq_lt_iff {n r b : Nat} (hlo : 2 * (r - 1) ^ 2 < b) (hhi : b ≤ 2 * r ^ 2) (hr : 0 < r) :
    2 * n ^ 2 < b ↔ n < r := by
  constructor
  · intro h
    by_contra! hle
    have := Nat.pow_le_pow_left hle 2
    omega
  · intro h
    have := Nat.pow_le_pow_left (show n ≤ r - 1 by omega) 2
    omega

/-- A normal operand's significand is at least `2^23 * sqrt 2` from the fraction 0x3504F4 on. -/
theorem enc_e8m0_normal {a : Word} (hs : f32Sign a = false) (hexp : 1 ≤ f32Exp a) (hexp' : f32Exp a ≤ 254) :
    enc blockParams .e8m0 a = BitVec.ofNat 32 (min (f32Exp a + if 0x3504F4 ≤ f32Frac a then 1 else 0) 254) := by
  have hfrac := f32Frac_lt a
  have hmag : f32Mag (f32Exp a) (f32Frac a) = (2 ^ 23 + f32Frac a) * 2 ^ (f32Exp a - 1) := if_neg (by omega)
  have hpos : f32Mag (f32Exp a) (f32Frac a) ≠ 0 := by
    rw [hmag]
    positivity
  have htest : 2 * (2 ^ 23 + f32Frac a) ^ 2 < 2 ^ (2 * (23 + 1)) ↔ 2 ^ 23 + f32Frac a < 0xB504F4 :=
    two_mul_sq_lt_iff (by decide) (by decide) (by decide)
  rw [enc_e8m0_pos (by rw [Finite32]; omega) hpos hs, hmag, p2Exp_mul_pow (d := 23) (by omega) (by omega)]
  simp only [htest]
  congr 1
  split <;> split <;> omega

/-- A subnormal operand's significand is at least `2^22 * sqrt 2` from the fraction 0x5A827A on. -/
theorem enc_e8m0_subnormal {a : Word} (hs : f32Sign a = false) (hexp : f32Exp a = 0) (hne : f32Frac a ≠ 0) :
    enc blockParams .e8m0 a = if 0x5A827A ≤ f32Frac a then 1#32 else 0#32 := by
  have hmag : f32Mag (f32Exp a) (f32Frac a) = f32Frac a := if_pos hexp
  have htest : 2 * f32Frac a ^ 2 < 2 ^ (2 * (22 + 1)) ↔ f32Frac a < 0x5A827A :=
    two_mul_sq_lt_iff (by decide) (by decide) (by decide)
  rw [enc_e8m0_pos (by rw [Finite32]; omega) (hmag.symm ▸ hne) hs, hmag]
  obtain hlog | hlog := Nat.lt_or_ge (f32Frac a) (2 ^ 22)
  · have hd : Nat.log2 (f32Frac a) < 22 := (Nat.log2_lt hne).2 hlog
    have hlow : p2Exp (f32Frac a) + 127 ≤ 0 := by
      rw [p2Exp_of_bounds (Nat.log2_self_le hne) Nat.lt_log2_self]
      split <;> omega
    rw [if_neg (by omega), max_eq_right hlow]
    rfl
  · rw [p2Exp_of_bounds (d := 22) hlog (f32Frac_lt a)]
    simp only [htest]
    by_cases h : f32Frac a < 0x5A827A
    · rw [if_pos h, if_neg (by omega)]
      rfl
    · rw [if_neg h, if_pos (by omega)]
      rfl

/-- Settles O25. -/
theorem encE8m0BitForm : Obligations.EncE8m0BitForm := by
  unfold Obligations.EncE8m0BitForm
  intro a s hs
  rw [exec_encE8m0]
  exact ⟨fun hexp hexp' => by rw [enc_e8m0_normal hs hexp hexp'], fun hexp hne => by rw [enc_e8m0_subnormal hs hexp hne]⟩

/-- Below `sqrt 2 / 2` means that twice the square is below 1. -/
theorem lt_sqrt_two_div_two_iff {m : ℚ} (hm : 0 ≤ m) : (m : ℝ) < Real.sqrt 2 / 2 ↔ 2 * m ^ 2 < 1 := by
  have hm' : (0 : ℝ) ≤ m := by exact_mod_cast hm
  have hcast : 2 * m ^ 2 < 1 ↔ 2 * (m : ℝ) ^ 2 < 1 := by exact_mod_cast Iff.rfl
  rw [hcast, lt_div_iff₀ two_pos, Real.lt_sqrt (by positivity)]
  constructor <;> intro h <;> nlinarith

/-- The code of a positive operand `m * 2^e`, `1/2 ≤ m < 1`. -/
theorem enc_e8m0_frexp {a : Word} (ha : Finite32 a) {m : ℚ} {e : ℤ} (hval : f32Rat a = m * 2 ^ e) (hlo : 1 / 2 ≤ m)
    (hhi : m < 1) : ((enc blockParams .e8m0 a).toNat : ℤ) =
      min (max ((if 2 * m ^ 2 < 1 then e - 1 else e) + 127) 0) 254 := by
  have hpow : (0 : ℚ) < 2 ^ e := by positivity
  have hvalpos : 0 < f32Rat a := hval ▸ mul_pos (by linarith) hpow
  have hs : f32Sign a = false := by
    by_contra h
    rw [f32Rat_eq_mag, if_pos (by simpa using h)] at hvalpos
    have : (0 : ℚ) ≤ (f32Mag (f32Exp a) (f32Frac a) : ℚ) * 2 ^ (-149 : ℤ) := by positivity
    linarith
  have hmagval : (f32Mag (f32Exp a) (f32Frac a) : ℚ) = m * 2 ^ (e + 149) := by
    rw [f32Rat_eq_mag, hs] at hval
    rw [zpow_add₀ two_ne_zero, ← mul_assoc, ← hval, zpow_neg]
    simp
  have hne : f32Mag (f32Exp a) (f32Frac a) ≠ 0 := by
    intro h0
    rw [f32Rat_eq_mag, h0] at hvalpos
    simp at hvalpos
  have he : 1 ≤ e + 149 := by
    by_contra! hlt
    have hle : (2 : ℚ) ^ (e + 149) ≤ 2 ^ (0 : ℤ) := zpow_le_zpow_right₀ (by norm_num) (by omega)
    have hone : (1 : ℚ) ≤ f32Mag (f32Exp a) (f32Frac a) := by exact_mod_cast Nat.pos_of_ne_zero hne
    rw [zpow_zero] at hle
    have hpow' : (0 : ℚ) < 2 ^ (e + 149) := by positivity
    nlinarith
  obtain ⟨d, hd⟩ := Int.eq_ofNat_of_zero_le (show 0 ≤ e + 148 by omega)
  have hscale : (2 : ℚ) ^ (e + 149) = 2 ^ (d + 1) := by
    rw [show e + 149 = ((d + 1 : ℕ) : ℤ) by push_cast; omega, zpow_natCast]
  rw [hscale] at hmagval
  rw [enc_e8m0_pos ha hne hs]
  generalize f32Mag (f32Exp a) (f32Frac a) = mag at hmagval hne
  have hpowd : (0 : ℚ) < 2 ^ d := by positivity
  have hmaglo : 2 ^ d ≤ mag := by
    have : (2 : ℚ) ^ d ≤ mag := by
      rw [hmagval, pow_succ]
      nlinarith
    exact_mod_cast this
  have hmaghi : mag < 2 ^ (d + 1) := by
    have : (mag : ℚ) < 2 ^ (d + 1) := by
      rw [hmagval]
      nlinarith [pow_succ (2 : ℚ) d]
    exact_mod_cast this
  have htest : 2 * mag ^ 2 < 2 ^ (2 * (d + 1)) ↔ 2 * m ^ 2 < 1 := by
    have hsq : (0 : ℚ) < (2 ^ (d + 1)) ^ 2 := by positivity
    rw [← Nat.cast_lt (α := ℚ)]
    push_cast
    rw [hmagval, mul_comm 2 (d + 1), pow_mul, mul_pow, ← mul_assoc]
    exact mul_lt_iff_lt_one_left hsq
  rw [p2Exp_of_bounds hmaglo hmaghi]
  simp only [htest]
  rw [BitVec.toNat_ofNat]
  split <;> omega

/-- Settles O24. -/
theorem encE8m0RoundsAtSqrtTwo : Obligations.EncE8m0RoundsAtSqrtTwo := by
  unfold Obligations.EncE8m0RoundsAtSqrtTwo
  intro a s
  rw [exec_encE8m0]
  refine ⟨fun h => ?_, fun h => ?_, fun ha hneg => ?_, fun ha hzero => ?_, fun m e ha hval hlo hhi =>
    ⟨_, rfl, fun hlt => ?_, fun hge => ?_⟩⟩
  · rw [enc_e8m0_nan h]
  · rw [enc_e8m0_inf h]
  · rw [f32Rat_eq_mag] at hneg
    have hne : f32Mag (f32Exp a) (f32Frac a) ≠ 0 := fun h0 => by simp [h0] at hneg
    have hs : f32Sign a = true := by
      by_contra h
      rw [if_neg h, one_mul] at hneg
      exact absurd hneg (not_lt.2 (by positivity))
    rw [enc_e8m0_neg ha hne hs]
  · rw [enc_e8m0_zero ha]
    have habs := abs_f32Rat a
    rw [hzero, abs_zero] at habs
    simpa using habs.symm
  · rw [enc_e8m0_frexp ha hval hlo hhi, if_pos ((lt_sqrt_two_div_two_iff (by linarith)).1 hlt)]
  · rw [enc_e8m0_frexp ha hval hlo hhi, if_neg (mt (lt_sqrt_two_div_two_iff (by linarith)).2 (not_lt.2 hge))]

end Sys2Proof.Machine
end

section
/-! PROOFS. Decoding and encoding back (R169), and quantizing twice (R79). -/

namespace Sys2Proof.Machine

open Sys2Proof.Safety Sys2Proof.Exact

/-- A masked code is packed from its sign and its number. -/
theorem packNum_codeNum (f : Format) (c : Word) : packNum f (codeSign f c) (codeNum f c) = codeOperand f c := by
  rw [codeNum, ← packCode_eq_packNum _ (codeMant_lt f c), packCode_codeFields]

theorem packCode_overflow {f : Format} (h : isStd f = true) (s : Bool) :
    packCode f s (overflowFields f).1 (overflowFields f).2 = packNum f s (overflowNum f) :=
  packCode_eq_packNum s (overflowFields_lt h).2

/-- A decoded finite code is a point of the format's grid, which rounding does not move. -/
theorem enc_decOperand_finite {f : Format} (h : isStd f = true) {c : Word} (hc : codeNum f c ≤ maxNum f) :
    enc blockParams f (decOperand f c) = codeOperand f c := by
  obtain ⟨hfinite, hsign, hgrid⟩ := decOperand_finite h hc
  rw [← f32Mag_eq_gridMag_absNum] at hgrid
  rw [enc_finite h hfinite, hsign]
  generalize decOperand f c = w at hgrid
  have hround : roundNum f (f32Exp w) (f32Frac w) = codeNum f c :=
    (roundNum_nearest h _ (f32Frac_lt w)).eq_of_eq (stepMag_pos f) hgrid
  have hnum : encNum f (f32Exp w) (f32Frac w) = codeNum f c := by
    rw [encNum, hround]
    apply min_eq_left
    split
    case isTrue hsub =>
      have hlt := (f32Mag_lt_iff h (f32Frac_lt w)).2 hsub
      rw [hgrid, Nat.mul_lt_mul_right (stepMag_pos f), ← gridVal_of_le le_rfl, (gridVal_strictMono _).lt_iff_lt] at hlt
      exact Nat.le_sub_one_of_lt hlt
    case isFalse =>
      rw [maxNum] at hc
      split at hc <;> omega
  rw [hnum, packNum_codeNum]

theorem fields_f32Inf (s : Bool) : f32Sign (f32Inf s) = s ∧ f32Exp (f32Inf s) = 255 ∧ f32Frac (f32Inf s) = 0 := by
  cases s <;> decide

/-- The infinity code of float8_e5m2 is its overflow code. -/
theorem enc_decOperand_inf {f : Format} (h : isStd f = true) {c : Word} (hpolicy : (formatSpec f).policy = .ieeeLike)
    (hc : codeNum f c = maxNum f + 1) : enc blockParams f (decOperand f c) = codeOperand f c := by
  have hover : overflowNum f = codeNum f c := by
    have hpos : 0 < overflowNum f := by
      cases f with
      | e8m0 | bf16 => cases h
      | e5m2 | e4m3fn | e2m3fn | e3m2fn | e2m1fn => decide
    rw [hc, maxNum, if_neg (by rw [hpolicy]; decide), Nat.sub_add_cancel hpos]
  obtain ⟨hs, he, hf⟩ := fields_f32Inf (codeSign f c)
  rw [decOperand_special h (by omega), if_pos ⟨hpolicy, hc⟩, enc_special h he, if_pos hf, packCode_overflow h, hover, hs,
    packNum_codeNum]

theorem enc_decOperand_e8m0 {c : Word} (h : isNaN32 (decOperand .e8m0 c) = false) :
    enc blockParams .e8m0 (decOperand .e8m0 c) = codeOperand .e8m0 c := by
  have hne : c &&& 0xFF#32 ≠ 0xFF#32 := fun heq => by simp [(isNaN32_decOperand_e8m0 c).2 heq] at h
  obtain ⟨hs, he, hlt, hf⟩ := decOperand_e8m0_finite hne
  apply BitVec.eq_of_toNat_eq
  rw [show (codeOperand .e8m0 c).toNat = codeNum .e8m0 c from toNat_byte_eq_codeNum c]
  by_cases h0 : codeNum .e8m0 c = 0
  · rw [if_pos h0] at hf
    rw [enc_e8m0_subnormal hs (he.trans h0) (by rw [hf]; decide), hf, h0]
    rfl
  · rw [if_neg h0] at hf
    rw [enc_e8m0_normal hs (by omega) (by omega), he, hf, BitVec.toNat_ofNat]
    norm_num
    omega

theorem enc_decOperand_bf16 (c : Word) : enc blockParams .bf16 (decOperand .bf16 c) = codeOperand .bf16 c := by
  have hto : (codeOperand .bf16 c).toNat = c.toNat % 2 ^ 16 := toNat_codeOperand_eq_mod .bf16 c
  have hdec : decOperand .bf16 c = codeOperand .bf16 c <<< 16 := decOperand_bf16 c
  apply BitVec.eq_of_toNat_eq
  rw [enc_bf16, encTrunc_eq_ushiftRight, hdec, BitVec.toNat_ushiftRight, BitVec.toNat_shiftLeft, Nat.shiftRight_eq_div_pow,
    Nat.shiftLeft_eq, hto]
  omega

/-- Encoding a decoded code gives it back, NaN codes apart. -/
theorem enc_decOperand {f : Format} {c : Word} (hc : isNaN32 (decOperand f c) = false) :
    enc blockParams f (decOperand f c) = codeOperand f c := by
  cases hstd : isStd f with
  | true =>
    obtain hfin | hspecial := le_or_gt (codeNum f c) (maxNum f)
    · exact enc_decOperand_finite hstd hfin
    · have hnan := (isNaN32_decOperand_iff hstd c).1
      rw [hc, Bool.false_eq_true, false_iff, not_and, not_not] at hnan
      obtain ⟨hpolicy, hnum⟩ := hnan hspecial
      exact enc_decOperand_inf hstd hpolicy hnum
  | false =>
    cases f with
    | e5m2 | e4m3fn | e2m3fn | e3m2fn | e2m1fn => cases hstd
    | e8m0 => exact enc_decOperand_e8m0 hc
    | bf16 => exact enc_decOperand_bf16 c

/-- A NaN code of the shared formats decodes to the quiet NaN of its sign. -/
theorem decOperand_of_isNaN32 {f : Format} (h : isStd f = true) {c : Word} (hc : isNaN32 (decOperand f c) = true) :
    decOperand f c = blockParams.decNan (codeSign f c) := by
  obtain ⟨hlt, hninf⟩ := (isNaN32_decOperand_iff h c).1.1 hc
  rw [decOperand_special h hlt, if_neg hninf]

/-- The saturating formats have no NaN code. -/
theorem not_isNaN32_of_saturating {f : Format} (hpolicy : (formatSpec f).policy = .finiteSaturating) (c : Word) :
    isNaN32 (decOperand f c) = false := by
  have h := isStd_of_saturating hpolicy
  obtain ⟨-, -, hsat, -⟩ := special_iff h c
  exact not_isNaN32_of_finite (decOperand_finite h (hsat hpolicy)).1

theorem fields_decNan (s : Bool) : f32Sign (blockParams.decNan s) = s ∧ f32Exp (blockParams.decNan s) = 255 ∧
    f32Frac (blockParams.decNan s) ≠ 0 := by
  cases s <;> decide

/-- A NaN code of a format other than float8_e5m2 is encoded back to itself. -/
theorem enc_decOperand_nan {f : Format} (hf : f ≠ .e5m2) {c : Word} (hc : isNaN32 (decOperand f c) = true) :
    enc blockParams f (decOperand f c) = codeOperand f c := by
  cases f with
  | e5m2 => exact absurd rfl hf
  | e8m0 => rw [enc_e8m0_nan hc]; exact ((isNaN32_decOperand_e8m0 c).1 hc).symm
  | bf16 => exact enc_decOperand_bf16 c
  | e4m3fn =>
    obtain ⟨hs, he, hfrac⟩ := fields_decNan (codeSign .e4m3fn c)
    have hnum : overflowNum .e4m3fn = codeNum .e4m3fn c :=
      le_antisymm ((isNaN32_decOperand_iff (f := .e4m3fn) rfl c).1.1 hc).1 (Nat.le_of_lt_succ (codeNum_lt .e4m3fn c))
    have hover := packCode_overflow (f := .e4m3fn) rfl (codeSign .e4m3fn c)
    rw [decOperand_of_isNaN32 rfl hc, enc_special rfl he, if_neg hfrac, hs, ← packNum_codeNum, ← hnum, ← hover]
    rfl
  | e2m3fn | e3m2fn | e2m1fn => exact absurd hc (by rw [not_isNaN32_of_saturating rfl]; decide)

/-- A NaN code of float8_e5m2 is encoded back to the quiet one of its sign. -/
theorem enc_decOperand_e5m2_nan {c : Word} (hc : isNaN32 (decOperand .e5m2 c) = true) :
    enc blockParams .e5m2 (decOperand .e5m2 c) = if codeSign .e5m2 c then 0xFE#32 else 0x7E#32 := by
  rw [decOperand_of_isNaN32 rfl hc]
  cases codeSign .e5m2 c <;> decide

/-- Decoding, encoding and decoding again is decoding once. -/
theorem decOperand_enc_decOperand (f : Format) (c : Word) :
    decOperand f (enc blockParams f (decOperand f c)) = decOperand f c := by
  cases hc : isNaN32 (decOperand f c) with
  | false => exact decOperand_congr (by rw [enc_decOperand hc, codeOperand_idem])
  | true =>
    by_cases hf : f = .e5m2
    · subst hf
      rw [enc_decOperand_e5m2_nan hc, decOperand_of_isNaN32 rfl hc]
      cases codeSign .e5m2 c <;> decide
    · exact decOperand_congr (by rw [enc_decOperand_nan hf hc, codeOperand_idem])

/-- Settles O39. -/
theorem codecRoundTrip : Obligations.CodecRoundTrip := by
  unfold Obligations.CodecRoundTrip
  intro f c
  refine ⟨enc_decOperand, fun hc => ⟨by rw [decOperand_enc_decOperand, hc], ?_⟩⟩
  by_cases hf : f = .e5m2
  · subst hf
    rw [if_pos rfl]
    exact enc_decOperand_e5m2_nan hc
  · rw [if_neg hf]
    exact enc_decOperand_nan hf hc

/-- Settles O57: a quantized pattern is a decoded code. -/
theorem quantIsIdempotent : Obligations.QuantIsIdempotent := by
  unfold Obligations.QuantIsIdempotent
  intro f a
  exact decOperand_enc_decOperand f (enc blockParams f a)

end Sys2Proof.Machine
end
